-- ==== Sys2Proof/Word.lean ====
section
/-! DEFINITION. Bytes, 4-byte words and 4x4 state matrices: the shapes of the values the engine works on
(00_scope.md R9, R10, R11), with indexing, XOR and nothing else. -/

namespace Sys2Proof

/-- A byte: an 8-bit unsigned value, bit 7 the most significant (R9). -/
abbrev Byte := BitVec 8

/-- A byte string: a finite sequence of bytes, byte 0 first; its length is part of the value (R9, R62). -/
abbrev Bytes := List Byte

/-- A word: the 4-byte string `(w[0], w[1], w[2], w[3])` of R11.  It is never read as an integer (R45). -/
structure Word where
  b0 : Byte
  b1 : Byte
  b2 : Byte
  b3 : Byte
  deriving DecidableEq, Repr, Inhabited

/-- `w[r]`, byte `r` of a word (R11). -/
def Word.get (w : Word) (r : Fin 4) : Byte :=
  match r with
  | 0 => w.b0
  | 1 => w.b1
  | 2 => w.b2
  | 3 => w.b3

/-- The word whose byte `r` is `f r`. -/
def Word.ofFn (f : Fin 4 → Byte) : Word := ⟨f 0, f 1, f 2, f 3⟩

/-- Byte-wise XOR of two words (the `^` between words of R155). -/
def Word.xor (v w : Word) : Word :=
  ⟨v.b0 ^^^ w.b0, v.b1 ^^^ w.b1, v.b2 ^^^ w.b2, v.b3 ^^^ w.b3⟩

/-- The word as a byte string, `w[0]` first (R11). -/
def Word.toBytes (w : Word) : Bytes := [w.b0, w.b1, w.b2, w.b3]

/-- A state matrix: four columns, each of four bytes, row `r` of a column being byte `r` of the word
(R10, R11). -/
structure Matrix where
  c0 : Word
  c1 : Word
  c2 : Word
  c3 : Word
  deriving DecidableEq, Repr, Inhabited

/-- Column `c` of a matrix. -/
def Matrix.col (S : Matrix) (c : Fin 4) : Word :=
  match c with
  | 0 => S.c0
  | 1 => S.c1
  | 2 => S.c2
  | 3 => S.c3

/-- `S[c][r]`, the byte in column `c` and row `r` (R10). -/
def Matrix.get (S : Matrix) (c r : Fin 4) : Byte := (S.col c).get r

/-- The matrix whose column `c` is `f c`. -/
def Matrix.ofCols (f : Fin 4 → Word) : Matrix := ⟨f 0, f 1, f 2, f 3⟩

/-- The matrix `S` with `S[c][r] = f c r`. -/
def Matrix.ofFn (f : Fin 4 → Fin 4 → Byte) : Matrix := Matrix.ofCols fun c => Word.ofFn (f c)

end Sys2Proof
end

