-- ==== Sys2Proof/Syntax.lean ====
section
/-! DEFINITION. The 18 commands of the opcode map (30_encoding.md R66), and what travels on the host's
interface: transactions, decoded commands, responses and the host's inputs in order (R60 to R63, R71, R247). -/

namespace Sys2Proof

/-- The commands, one constructor per row of `spec/opcode_table.json`.  The command word holds no register
fields, immediates or mode bits (R61), so no constructor carries an operand: operands travel on the ports
`A`, `B` and `IDX` (R62), which are fields of the machine's state. -/
inductive Instr where
  | keyexpand
  | rkread
  | ksinfo
  | encblk
  | decblk
  | ctrenc
  | ctrdec
  | ctrinc
  | xtime
  | sbox
  | invsbox
  | subbytes
  | invsubbytes
  | shiftrows
  | invshiftrows
  | mixcolumns
  | invmixcolumns
  | addroundkey
  deriving DecidableEq, Repr

/-- What the host presents for one command (R60): the command word and the three operand ports. -/
structure Transaction where
  /-- `CMD[7:0]` (R61). -/
  cmd : Byte
  /-- Operand port `A`, a byte string whose length is part of the value (R62). -/
  a : Bytes
  /-- Operand port `B`, of the same kind (R62). -/
  b : Bytes
  /-- Operand port `IDX[7:0]`, unsigned (R62). -/
  idx : Byte
  deriving DecidableEq, Repr

/-- A transaction whose command word has been decoded: what one line of a program says (R70, R71). -/
structure Command where
  instr : Instr
  a : Bytes
  b : Bytes
  idx : Byte
  deriving DecidableEq, Repr

/-- What the engine answers to one command (R63): `STATUS[7:0]` and the result string `R`. -/
structure Response where
  status : Byte
  r : Bytes
  deriving DecidableEq, Repr

/-- One input of the host, in the order the host makes them (R246, R247). -/
inductive HostInput where
  /-- A command transaction, presented and then waited for (R65). -/
  | command (t : Transaction)
  /-- The RESET input asserted between commands (R240). -/
  | reset
  /-- RESET asserted while the command of `t` is in progress: that command is abandoned (R240). -/
  | resetDuring (t : Transaction)
  deriving DecidableEq, Repr

end Sys2Proof
end

