-- ==== Sys2Proof/Decode.lean ====
section
/-! DEFINITION. The decoder, total on the 256 command words, and after it the encoder
(30_encoding.md R61, R66, R67, R69, R71). -/

namespace Sys2Proof

/-- One row of the opcode map: a command word `w` selects `instr` when `w & mask = pattern`. -/
structure OpcodeRow where
  mask : Byte
  pattern : Byte
  instr : Instr
  deriving DecidableEq, Repr

/-- Why a command word is no command. -/
inductive DecodeError where
  /-- The word is none of the 18 opcodes: ILLEGAL_COMMAND (R67).  Safe: the engine takes that fault. -/
  | illegalCommand (cmd : Byte)
  deriving DecidableEq, Repr

/-- The opcode map of R66: "Every row has mask 0xFF". -/
def opcodeTable : List OpcodeRow :=
  [ ⟨0xFF, 0x01, .keyexpand⟩,
    ⟨0xFF, 0x02, .rkread⟩,
    ⟨0xFF, 0x03, .ksinfo⟩,
    ⟨0xFF, 0x04, .encblk⟩,
    ⟨0xFF, 0x05, .decblk⟩,
    ⟨0xFF, 0x06, .ctrenc⟩,
    ⟨0xFF, 0x07, .ctrdec⟩,
    ⟨0xFF, 0x08, .ctrinc⟩,
    ⟨0xFF, 0x10, .xtime⟩,
    ⟨0xFF, 0x11, .sbox⟩,
    ⟨0xFF, 0x12, .invsbox⟩,
    ⟨0xFF, 0x13, .subbytes⟩,
    ⟨0xFF, 0x14, .invsubbytes⟩,
    ⟨0xFF, 0x15, .shiftrows⟩,
    ⟨0xFF, 0x16, .invshiftrows⟩,
    ⟨0xFF, 0x17, .mixcolumns⟩,
    ⟨0xFF, 0x18, .invmixcolumns⟩,
    ⟨0xFF, 0x19, .addroundkey⟩ ]

/-- The row selects this command word. -/
def OpcodeRow.selects (row : OpcodeRow) (cmd : Byte) : Bool := (cmd &&& row.mask) == row.pattern

/-- The first row of a table that selects the command word, or ILLEGAL_COMMAND (R67, R69). -/
def decodeIn (table : List OpcodeRow) (cmd : Byte) : Except DecodeError Instr :=
  match table with
  | [] => .error (.illegalCommand cmd)
  | row :: rest => if row.selects cmd then .ok row.instr else decodeIn rest cmd

/-- The decoder.  "each of the 256 values decodes to one of the 18 commands of rule R66 or to
ILLEGAL_COMMAND" (R69). -/
def decode (cmd : Byte) : Except DecodeError Instr := decodeIn opcodeTable cmd

/-- Decoding reads the command word alone; the operands pass through unchanged (R62, R68, R69). -/
def decodeTransaction (t : Transaction) : Except DecodeError Command :=
  match decode t.cmd with
  | .ok i => .ok { instr := i, a := t.a, b := t.b, idx := t.idx }
  | .error e => .error e

/-- The opcode of each command, from the column `op (hex)` of R66. -/
def encode (i : Instr) : Byte :=
  match i with
  | .keyexpand => 0x01
  | .rkread => 0x02
  | .ksinfo => 0x03
  | .encblk => 0x04
  | .decblk => 0x05
  | .ctrenc => 0x06
  | .ctrdec => 0x07
  | .ctrinc => 0x08
  | .xtime => 0x10
  | .sbox => 0x11
  | .invsbox => 0x12
  | .subbytes => 0x13
  | .invsubbytes => 0x14
  | .shiftrows => 0x15
  | .invshiftrows => 0x16
  | .mixcolumns => 0x17
  | .invmixcolumns => 0x18
  | .addroundkey => 0x19

/-- The encoding of a command: "its opcode byte and its operand strings" (R71). -/
def encodeCommand (c : Command) : Transaction :=
  { cmd := encode c.instr, a := c.a, b := c.b, idx := c.idx }

/-- The command word of an instruction whose bits are `w`, `nbits` of them given: a command word is 8 bits
(R61), and every bit above `nbits` is 0. -/
def tableCommandWord (nbits w : Nat) : Byte := BitVec.ofNat 8 (w % 2 ^ nbits)

/-- What this decoder reads from a command word numbered as `spec/opcode_table.json` numbers it: one word,
bit 0 the least significant. -/
def decodeTableWord (nbits w : Nat) : Option Instr :=
  match decode (tableCommandWord nbits w) with
  | .ok i => some i
  | .error _ => none

end Sys2Proof
end

