-- ==== Sys2Proof/Config.lean ====
section
/-! DEFINITION. What an implementation fixes, and the free values: what the spec leaves unspecified.
An `opaque` constant has no body, so nothing can be proved of its value. -/

namespace Sys2Proof

/-- MAX_CTR_LEN, the largest `len(A)` a CTRENC or CTRDEC can carry: a parameter the spec leaves OPEN, which a
model "takes as an argument, and may take as unbounded" (R198, R8, D5).  `none` is no bound; `some m` is the
bound `m`.  The meanings pass this constant to `Machine.ctrCommand`, which is written for every bound.
DESIGN CHOICE, safe: unbounded, so that no payload is refused (log entry 3). -/
def Config.maxCtrLen : Option Nat := none

/-- FREE VALUE: the word that entry `i` of the schedule file holds where the spec leaves it unspecified
(R24, R30, R159, R240; U5, U6).  `draw` numbers the occasions on which entries became unspecified.
(log entries 1 and 2) -/
opaque Config.freeWord : (draw : Nat) → (i : Nat) → Word

/-- FREE VALUE: the round count of a `KEY_LEN` that is not 16, 24 or 32, which R23 leaves undefined and which
no reachable state asks for.  It is bounded by the largest round count, so that a schedule read stays in the
file (R42).  (log entry 4) -/
opaque Config.undefinedRounds : (keyLen : Byte) → Fin 15

end Sys2Proof
end

