-- ==== Sys2Proof/Machine/State.lean ====
section
/-! DEFINITION. The machine's state as plain data, its state after reset, and the reasons a step can stop
(10_state.md R20 to R30, 30_encoding.md R60 to R63, 70_reset_and_hazards.md R240, R246). -/

namespace Sys2Proof.Machine

/-- The causes of a fault, one per code 1..7 of R211.  A fault of the engine is no stop of the model: the
command takes it and the machine goes on (R212, R213). -/
inductive Cause where
  /-- 1 ILLEGAL_COMMAND: any opcode not in R66. -/
  | illegalCommand
  /-- 2 NO_KEY_SCHEDULE: RKREAD, ENCBLK, DECBLK, CTRENC, CTRDEC while `KS_VALID = 0`. -/
  | noKeySchedule
  /-- 3 INVALID_KEY_LENGTH: KEYEXPAND with `len(A)` not 16, 24 or 32. -/
  | invalidKeyLength
  /-- 4 INVALID_BLOCK_LENGTH: ENCBLK, DECBLK with `len(A) != 16`. -/
  | invalidBlockLength
  /-- 5 INVALID_IV_LENGTH: CTRENC, CTRDEC with `len(B) != 16`. -/
  | invalidIvLength
  /-- 6 INVALID_OPERAND_LENGTH: the component commands and CTRINC with an operand of the wrong length. -/
  | invalidOperandLength
  /-- 7 ROUND_KEY_INDEX: RKREAD with `zext(IDX) > Nr`. -/
  | roundKeyIndex
  deriving DecidableEq, Repr

/-- Why the machine would stop with a fault: never, so there is no constructor.  Every fault the spec describes
is an effect the engine has (it records `FAULT` and answers, R213), "No computation can fault" (R211), and no
access can miss (R42, R46). -/
inductive Fault where
  deriving DecidableEq, Repr

/-- Why a command has no meaning. -/
inductive Refusal where
  /-- Raised by an arm of `exec` whose instruction has no meaning yet; no arm does.  Safe. -/
  | notModelled (mnemonic : String)
  /-- Raised by CTRENC and CTRDEC for data longer than MAX_CTR_LEN, which "is not a transaction the interface
  can carry" (R198).  With the bound this model takes, none (log entry 3), nothing raises it.  Safe. -/
  | ctrDataTooLong
  deriving DecidableEq, Repr

/-- The machine.  The first four fields are the engine's persistent state (R21, R22, R24, R25).  The three
ROMs of R26 never change and are constants (`Machine/Gf.lean`).  The transient state of R28 lives inside one
command's meaning and is in no field. -/
structure State where
  /-- `KS_VALID`, 1 bit: a round-key schedule is loaded (R21). -/
  ksValid : Bool
  /-- `KEY_LEN`, 8 bits unsigned: the length in bytes of the key of the loaded schedule (R22). -/
  keyLen : Byte
  /-- `KS.W[0..59]`, the schedule file: 60 words of 4 bytes (R24, R41). -/
  ksw : Vector Word 60
  /-- `FAULT`, 8 bits unsigned: the cause code of the first fault since reset, 0 for none (R25). -/
  fault : Byte
  /-- `CMD`, the command word the host last presented (R60, R61). -/
  cmd : Byte
  /-- Operand port `A`, as the host last presented it (R62). -/
  a : Bytes
  /-- Operand port `B` (R62). -/
  b : Bytes
  /-- Operand port `IDX` (R62). -/
  idx : Byte
  /-- The responses given so far, oldest first: `STATUS` and `R` of each (R63, R246). -/
  responses : List Response
  /-- What the host will present, in order, each after the response to the one before it (R65, R71, R246).
  The model's own field (log entry 5). -/
  pending : List HostInput
  /-- How many times entries of `KS.W` have become unspecified: the model's own counter, which numbers the
  free draws of `Config.freeWord` (log entry 2). -/
  draws : Nat
  deriving DecidableEq, Repr

/-- The machine right after reset (R30, R240, R241).  `KS.W` is unspecified: a free draw, never read while
`KS_VALID = 0`.  The ports hold what R70 gives an operand not written, no response has been given and the
host has nothing to present (log entries 1 and 5). -/
def State.reset : State :=
  { ksValid := false
    keyLen := 0
    ksw := Vector.ofFn fun i => Config.freeWord 0 i
    fault := 0
    cmd := 0
    a := []
    b := []
    idx := 0
    responses := []
    pending := []
    draws := 1 }

end Sys2Proof.Machine
end

