-- ==== Sys2Proof/Machine/Flags.lean ====
section
/-! DEFINITION. The status the engine reports.  It has no condition flags (10_state.md R27); what stands in
their place is the cause code held in `FAULT` and answered as `STATUS` (30_encoding.md R63, 60_exceptions.md
R211). -/

namespace Sys2Proof.Machine

/-- The code of each cause, as `FAULT` and a failing `STATUS` hold it (R211). -/
def causeCode (c : Cause) : Byte :=
  match c with
  | .illegalCommand => 1
  | .noKeySchedule => 2
  | .invalidKeyLength => 3
  | .invalidBlockLength => 4
  | .invalidIvLength => 5
  | .invalidOperandLength => 6
  | .roundKeyIndex => 7

/-- The code 0 NONE: no fault (R211), and the `STATUS` of a command that succeeds (R63). -/
def codeNone : Byte := 0x00

end Sys2Proof.Machine
end

