-- ==== Sys2Proof/Machine/Operands.lean ====
section
/-! DEFINITION. How byte strings are read and written: blocks as state matrices, keys as words, byte-wise XOR,
and the one integer reading, of a counter (00_scope.md R10, R11, R12; 20_memory.md R43 to R45). -/

namespace Sys2Proof.Machine

/-- `b[i]` of a byte string (R9).  Every rule reads inside the string: lengths are checked first (R46). -/
def byteAt (b : Bytes) (i : Nat) : Byte := b.getD i 0

/-- `toState(b)`: `S[c][r] = b[4*c + r]`, "filling column-major" (R10, R43). -/
def toState (b : Bytes) : Matrix :=
  Matrix.ofFn fun c r => byteAt b (4 * c.val + r.val)

/-- `fromState(S)`: `b[4*c + r] = S[c][r]` (R10, R43). -/
def fromState (S : Matrix) : Bytes :=
  S.c0.toBytes ++ S.c1.toBytes ++ S.c2.toBytes ++ S.c3.toBytes

/-- Word `i` of a key: `key[4i .. 4i+4)` (R11, R151). -/
def keyWord (key : Bytes) (i : Nat) : Word :=
  Word.ofFn fun r => byteAt key (4 * i + r.val)

/-- The byte-wise XOR of two strings on their common prefix: `[ s[m] ^ t[m] ]` (R191). -/
def xorBytes (s t : Bytes) : Bytes := List.zipWith (fun x y => x ^^^ y) s t

/-- `value(c)`: the big-endian integer a counter is read as, byte 0 the most significant (R44). -/
def counterValue (c : Bytes) : Nat :=
  match c with
  | [] => 0
  | x :: rest => x.toNat * 256 ^ rest.length + counterValue rest

end Sys2Proof.Machine
end

