-- ==== Sys2Proof/Machine/Ops.lean ====
section
/-! DEFINITION. The named operations over the state: answering, taking a fault, the held-fault check, reset,
presenting a transaction, and reading the schedule file (60_exceptions.md R212 to R215; 70_reset_and_hazards.md
R240; 10_state.md R23, R24). -/

namespace Sys2Proof.Machine

/-- Give the response of the command in progress (R63). -/
def respond (status : Byte) (r : Bytes) (s : State) : State :=
  { s with responses := s.responses ++ [{ status := status, r := r }] }

/-- A command succeeds with the result string `r`: `STATUS = 0x00` (R63). -/
def succeed (r : Bytes) (s : State) : State := respond codeNone r s

/-- TAKING A FAULT (R213): `FAULT <- code; STATUS <- code; R <- empty`, and nothing else changes.  There is no
return from a fault but RESET (R215): `assertReset`. -/
def takeFault (c : Cause) (s : State) : State :=
  respond (causeCode c) [] { s with fault := causeCode c }

/-- The answer to a command presented while `FAULT != 0`: the held code and an empty `R`, with nothing executed
(R212). -/
def answerHeldFault (s : State) : State := respond s.fault [] s

/-- The held-fault check, before anything else of every command (R212, R214 1).  `t` is the state the command
gives when no fault is held. -/
def unlessFaultHeld (s t : State) : Host.Outcome State Fault Refusal :=
  .next (if s.fault = codeNone then t else answerHeldFault s)

/-- A command word that is no opcode: ILLEGAL_COMMAND, after the held-fault check and before any operand is
read (R67, R214 2). -/
def execIllegal (s : State) : Host.Outcome State Fault Refusal :=
  unlessFaultHeld s (takeFault .illegalCommand s)

/-- The schedule file with every entry unspecified: free draw number `draw` (R30, R240). -/
def unspecifiedSchedule (draw : Nat) : Vector Word 60 :=
  Vector.ofFn fun i => Config.freeWord draw i

/-- RESET (R240): `KS_VALID`, `KEY_LEN` and `FAULT` to 0, `KS.W` unspecified, no response.  The responses
already given and what the host has yet to present are not the engine's (R246). -/
def assertReset (s : State) : State :=
  { s with
    ksValid := false
    keyLen := 0
    fault := 0
    ksw := unspecifiedSchedule s.draws
    draws := s.draws + 1 }

/-- The host presents a transaction on the ports, and `rest` is what it has yet to present (R60, R65).  The
engine copies the operands in: they are values (R49). -/
def present (t : Transaction) (rest : List HostInput) (s : State) : State :=
  { s with cmd := t.cmd, a := t.a, b := t.b, idx := t.idx, pending := rest }

/-- The host's RESET input, taken from what it had yet to do.  A command in progress at that moment is
abandoned without a trace (R240, U11). -/
def takeReset (rest : List HostInput) (s : State) : State :=
  assertReset { s with pending := rest }

/-- The transaction that carries a bare command word: every operand is the one R70 gives an operand not
written, the empty string for `A` and `B` and 0 for `IDX`. -/
def bareTransaction (cmd : Byte) : Transaction := { cmd := cmd, a := [], b := [], idx := 0 }

/-- `Nr(KEY_LEN)`, the number of rounds (R7, R23). -/
def rounds (keyLen : Byte) : Nat :=
  if keyLen = 16 then 10
  else if keyLen = 24 then 12
  else if keyLen = 32 then 14
  else (Config.undefinedRounds keyLen).val

/-- `4*(Nr+1)`, the number of schedule words a key of this length expands to (R7, R152). -/
def scheduleWords (keyLen : Byte) : Nat := 4 * (rounds keyLen + 1)

/-- `KS.W[i]` (R24).  Every index a command forms is below 60 (R42). -/
def ksWord (s : State) (i : Nat) : Word := s.ksw[i]?.getD default

/-- `RK(k)`, round key `k`: `RK(k)[c][r] = KS.W[4*k + c][r]` (R24, R157). -/
def roundKey (s : State) (k : Nat) : Matrix :=
  Matrix.ofFn fun c r => (ksWord s (4 * k + c.val)).get r

end Sys2Proof.Machine
end

