-- ==== Sys2Proof/Machine/Transforms.lean ====
section
/-! DEFINITION. The state-matrix transforms as pure functions (41_state_transforms.md R120 to R129).  Each reads
the whole of its input matrix as it stood before and builds a new one. -/

namespace Sys2Proof.Machine

/-- SubBytes (R120). -/
def subBytes (S : Matrix) : Matrix := Matrix.ofFn fun c r => sbox (S.get c r)

/-- InvSubBytes (R121). -/
def invSubBytes (S : Matrix) : Matrix := Matrix.ofFn fun c r => invSbox (S.get c r)

/-- ShiftRows: `S'[c][r] = S[(c + r) mod 4][r]` (R122).  Addition in `Fin 4` is modulo 4. -/
def shiftRows (S : Matrix) : Matrix := Matrix.ofFn fun c r => S.get (c + r) r

/-- InvShiftRows: `S'[c][r] = S[(c - r) mod 4][r]` (R123). -/
def invShiftRows (S : Matrix) : Matrix := Matrix.ofFn fun c r => S.get (c - r) r

/-- MixColumn on the bytes of one column.  "Every right-hand side reads the column before the update": the last
line reads the ORIGINAL `a0` (R124; 90_conflicts.md C1). -/
def mixColumn (w : Word) : Word :=
  let t := w.b0 ^^^ w.b1 ^^^ w.b2 ^^^ w.b3
  { b0 := w.b0 ^^^ t ^^^ xtime (w.b0 ^^^ w.b1)
    b1 := w.b1 ^^^ t ^^^ xtime (w.b1 ^^^ w.b2)
    b2 := w.b2 ^^^ t ^^^ xtime (w.b2 ^^^ w.b3)
    b3 := w.b3 ^^^ t ^^^ xtime (w.b3 ^^^ w.b0) }

/-- InvMixColumn: the pre-pass, with `u` and `v` both computed from the input bytes, then MixColumn (R126). -/
def invMixColumn (w : Word) : Word :=
  let u := xtime (xtime (w.b0 ^^^ w.b2))
  let v := xtime (xtime (w.b1 ^^^ w.b3))
  mixColumn { b0 := w.b0 ^^^ u, b1 := w.b1 ^^^ v, b2 := w.b2 ^^^ u, b3 := w.b3 ^^^ v }

/-- MixColumns: MixColumn on each of the four columns (R125). -/
def mixColumns (S : Matrix) : Matrix := Matrix.ofCols fun c => mixColumn (S.col c)

/-- InvMixColumns (R126). -/
def invMixColumns (S : Matrix) : Matrix := Matrix.ofCols fun c => invMixColumn (S.col c)

/-- AddRoundKey: `S'[c][r] = S[c][r] ^ K[c][r]` (R127). -/
def addRoundKey (S K : Matrix) : Matrix := Matrix.ofFn fun c r => S.get c r ^^^ K.get c r

end Sys2Proof.Machine
end

