-- ==== Sys2Proof/Machine/Component.lean ====
section
/-! DEFINITION. The component commands: XTIME, SBOX, INVSBOX (40_tables_gf.md R107 to R109) and the seven state
transforms (41_state_transforms.md R130 to R136).  None needs a loaded key and none writes state. -/

namespace Sys2Proof.Machine

/-- A command that reads one byte from `A` and answers `f` of it (the template of R107 to R109). -/
def byteCommand (f : Byte → Byte) (s : State) : Host.Outcome State Fault Refusal :=
  unlessFaultHeld s
    (if s.a.length ≠ 1 then takeFault .invalidOperandLength s
     else succeed [f (byteAt s.a 0)] s)

/-- A command that reads one 16-byte state from `A` and answers `f` of it, serialised column-major (the template
of R130 to R135). -/
def matrixCommand (f : Matrix → Matrix) (s : State) : Host.Outcome State Fault Refusal :=
  unlessFaultHeld s
    (if s.a.length ≠ 16 then takeFault .invalidOperandLength s
     else succeed (fromState (f (toState s.a))) s)

/-- XTIME, opcode 0x10 (R107). -/
def execXtime (s : State) : Host.Outcome State Fault Refusal := byteCommand xtime s

/-- SBOX, opcode 0x11 (R108). -/
def execSbox (s : State) : Host.Outcome State Fault Refusal := byteCommand sbox s

/-- INVSBOX, opcode 0x12 (R109). -/
def execInvsbox (s : State) : Host.Outcome State Fault Refusal := byteCommand invSbox s

/-- SUBBYTES, opcode 0x13 (R130). -/
def execSubbytes (s : State) : Host.Outcome State Fault Refusal := matrixCommand subBytes s

/-- INVSUBBYTES, opcode 0x14 (R131). -/
def execInvsubbytes (s : State) : Host.Outcome State Fault Refusal := matrixCommand invSubBytes s

/-- SHIFTROWS, opcode 0x15 (R132). -/
def execShiftrows (s : State) : Host.Outcome State Fault Refusal := matrixCommand shiftRows s

/-- INVSHIFTROWS, opcode 0x16 (R133). -/
def execInvshiftrows (s : State) : Host.Outcome State Fault Refusal := matrixCommand invShiftRows s

/-- MIXCOLUMNS, opcode 0x17 (R134). -/
def execMixcolumns (s : State) : Host.Outcome State Fault Refusal := matrixCommand mixColumns s

/-- INVMIXCOLUMNS, opcode 0x18 (R135). -/
def execInvmixcolumns (s : State) : Host.Outcome State Fault Refusal := matrixCommand invMixColumns s

/-- ADDROUNDKEY, opcode 0x19: "It is one fault even when both are wrong" (R136). -/
def execAddroundkey (s : State) : Host.Outcome State Fault Refusal :=
  unlessFaultHeld s
    (if s.a.length ≠ 16 ∨ s.b.length ≠ 16 then takeFault .invalidOperandLength s
     else succeed (fromState (addRoundKey (toState s.a) (toState s.b))) s)

end Sys2Proof.Machine
end

