-- ==== Sys2Proof/Machine/Block.lean ====
section
/-! DEFINITION. The block cipher orchestrator (43_block_cipher.md R170 to R177) and the commands ENCBLK and DECBLK. -/

namespace Sys2Proof.Machine

/-- One middle round of EncryptBlock with round key `K` (R171). -/
def encryptRound (K S : Matrix) : Matrix := addRoundKey (mixColumns (shiftRows (subBytes S))) K

/-- One middle round of DecryptBlock with round key `K` (R174). -/
def decryptRound (K S : Matrix) : Matrix := invSubBytes (invShiftRows (invMixColumns (addRoundKey S K)))

/-- EncryptBlock's rounds `1..n`, upward (R171). -/
def encryptRounds (rk : Nat → Matrix) (n : Nat) (S : Matrix) : Matrix :=
  match n with
  | 0 => S
  | k + 1 => encryptRound (rk (k + 1)) (encryptRounds rk k S)

/-- DecryptBlock's rounds `n downto 1` (R174). -/
def decryptRounds (rk : Nat → Matrix) (n : Nat) (S : Matrix) : Matrix :=
  match n with
  | 0 => S
  | k + 1 => decryptRounds rk k (decryptRound (rk (k + 1)) S)

/-- EncryptBlock (R171) under the round keys `rk 0 .. rk nr`. -/
def encryptMatrix (rk : Nat → Matrix) (nr : Nat) (S : Matrix) : Matrix :=
  addRoundKey (shiftRows (subBytes (encryptRounds rk (nr - 1) (addRoundKey S (rk 0))))) (rk nr)

/-- DecryptBlock (R174).  InvMixColumns is never applied to a round key. -/
def decryptMatrix (rk : Nat → Matrix) (nr : Nat) (S : Matrix) : Matrix :=
  addRoundKey (decryptRounds rk (nr - 1) (invSubBytes (invShiftRows (addRoundKey S (rk nr))))) (rk 0)

/-- `EncryptBlock(in)` under the loaded schedule (R170, R171). -/
def encryptBlock (s : State) (input : Bytes) : Bytes :=
  fromState (encryptMatrix (roundKey s) (rounds s.keyLen) (toState input))

/-- `DecryptBlock(in)` under the loaded schedule (R170, R174). -/
def decryptBlock (s : State) (input : Bytes) : Bytes :=
  fromState (decryptMatrix (roundKey s) (rounds s.keyLen) (toState input))

/-- A command that reads one block from `A` and answers `f` of it under the loaded schedule (the template of R172
and R175). -/
def blockCommand (f : State → Bytes → Bytes) (s : State) : Host.Outcome State Fault Refusal :=
  unlessFaultHeld s
    (if s.ksValid = false then takeFault .noKeySchedule s
     else if s.a.length ≠ 16 then takeFault .invalidBlockLength s
     else succeed (f s s.a) s)

/-- ENCBLK, opcode 0x04 (R172). -/
def execEncblk (s : State) : Host.Outcome State Fault Refusal := blockCommand encryptBlock s

/-- DECBLK, opcode 0x05 (R175). -/
def execDecblk (s : State) : Host.Outcome State Fault Refusal := blockCommand decryptBlock s

end Sys2Proof.Machine
end

