-- ==== Sys2Proof/WellFormed.lean ====
section
/-! DEFINITION. Which commands the interface can carry (30_encoding.md R64, 44_ctr_mode.md R198).  Every
operand length is legal on the ports, a wrong one being a fault of the command and not an ill-formed
transaction (R62, R64); the one transaction that "cannot be presented" is a CTRENC or CTRDEC longer than
MAX_CTR_LEN. -/

namespace Sys2Proof

/-- `n` is within the bound: `none` is no bound. -/
def withinBound (bound : Option Nat) (n : Nat) : Bool :=
  match bound with
  | none => true
  | some m => decide (n ≤ m)

/-- The interface has a transaction for this command, where `bound` is MAX_CTR_LEN (R64, R198). -/
def Command.wellFormed (bound : Option Nat) (c : Command) : Bool :=
  match c.instr with
  | .ctrenc => withinBound bound c.a.length
  | .ctrdec => withinBound bound c.a.length
  | .keyexpand => true
  | .rkread => true
  | .ksinfo => true
  | .encblk => true
  | .decblk => true
  | .ctrinc => true
  | .xtime => true
  | .sbox => true
  | .invsbox => true
  | .subbytes => true
  | .invsubbytes => true
  | .shiftrows => true
  | .invshiftrows => true
  | .mixcolumns => true
  | .invmixcolumns => true
  | .addroundkey => true

end Sys2Proof
end

