-- ==== Sys2Proof/Machine/Ctr.lean ====
section
/-! DEFINITION. The counter-mode driver (44_ctr_mode.md R190 to R198) and the commands CTRENC, CTRDEC and CTRINC. -/

namespace Sys2Proof.Machine

/-- The carry scan of Inc128, on the bytes least significant first: a byte `0xFF` becomes `0x00` and the carry goes
on; the first other byte takes it and the scan stops; past the last byte it is dropped (R192). -/
def incCarry (c : Bytes) : Bytes :=
  match c with
  | [] => []
  | x :: rest => if x = 0xFF then 0x00 :: incCarry rest else (x + 1) :: rest

/-- Inc128: "scan bytes from the last (least-significant) to the first" (R192). -/
def inc128 (c : Bytes) : Bytes := (incCarry c.reverse).reverse

/-- `n` turns of CtrXor's loop, on what is left of the data and with the running counter `ctr`; the counter is
incremented after every chunk (R191; 90_conflicts.md C2). -/
def ctrBlocks (enc : Bytes → Bytes) (n : Nat) (data ctr : Bytes) : Bytes :=
  match n with
  | 0 => []
  | k + 1 => xorBytes (data.take 16) (enc ctr) ++ ctrBlocks enc k (data.drop 16) (inc128 ctr)

/-- `ceil(n/16)`, the number of blocks in `n` bytes of data (R191). -/
def blockCount (n : Nat) : Nat := (n + 15) / 16

/-- `CtrXor(data, iv)` (R191).  It calls EncryptBlock and never DecryptBlock (R190). -/
def ctrXor (s : State) (data iv : Bytes) : Bytes :=
  ctrBlocks (encryptBlock s) (blockCount data.length) data iv

/-- CTRENC and CTRDEC under the bound MAX_CTR_LEN (R193, R194).  Data longer than the bound "is not a transaction the
interface can carry", so it is refused before anything else (R198). -/
def ctrCommand (bound : Option Nat) (s : State) : Host.Outcome State Fault Refusal :=
  if withinBound bound s.a.length = false then .refused .ctrDataTooLong
  else
    unlessFaultHeld s
      (if s.ksValid = false then takeFault .noKeySchedule s
       else if s.b.length ≠ 16 then takeFault .invalidIvLength s
       else succeed (ctrXor s s.a s.b) s)

/-- CTRENC, opcode 0x06 (R193). -/
def execCtrenc (s : State) : Host.Outcome State Fault Refusal := ctrCommand Config.maxCtrLen s

/-- CTRDEC, opcode 0x07: "operationally identical" (R194, D16). -/
def execCtrdec (s : State) : Host.Outcome State Fault Refusal := ctrCommand Config.maxCtrLen s

/-- CTRINC, opcode 0x08 (R195). -/
def execCtrinc (s : State) : Host.Outcome State Fault Refusal :=
  unlessFaultHeld s
    (if s.a.length ≠ 16 then takeFault .invalidOperandLength s
     else succeed (inc128 s.a) s)

end Sys2Proof.Machine
end

