-- ==== Sys2Proof/Machine/KeySchedule.lean ====
section
/-! DEFINITION. The key expansion (42_key_schedule.md R150 to R158) and the commands KEYEXPAND, RKREAD and KSINFO
(R159 to R161). -/

namespace Sys2Proof.Machine

/-- RotWord: "rotate `prev` left by one byte" (R153). -/
def rotWord (w : Word) : Word := ⟨w.b1, w.b2, w.b3, w.b0⟩

/-- SubWord: every byte through SBOX (R154). -/
def subWord (w : Word) : Word := ⟨sbox w.b0, sbox w.b1, sbox w.b2, sbox w.b3⟩

/-- `t[0] <- t[0] ^ RCON[rc]`: the round constant goes into byte 0 only (R155). -/
def addRcon (rc : Nat) (w : Word) : Word := { w with b0 := w.b0 ^^^ rcon rc }

/-- `t` in one turn of ExpandKey's loop, from `prev = w[i-1]`; the tests in the order of R155. -/
def expandTemp (keyLen i rc : Nat) (prev : Word) : Word :=
  if i % (keyLen / 4) = 0 then addRcon rc (subWord (rotWord prev))
  else if keyLen = 32 ∧ i % (keyLen / 4) = 4 then subWord prev
  else prev

/-- The round-constant counter after the turn for word `i` (R155). -/
def nextRc (keyLen i rc : Nat) : Nat :=
  if i % (keyLen / 4) = 0 then rc + 1 else rc

/-- `n` turns of ExpandKey's loop, from the words `w` that exist so far: the next word is number
`i = len(w)`, and it is `t ^ w[i-Nk]` (R152, R155). -/
def expandLoop (keyLen n rc : Nat) (w : List Word) : List Word :=
  match n with
  | 0 => w
  | n + 1 =>
    let i := w.length
    let t := expandTemp keyLen i rc (w.getD (i - 1) default)
    expandLoop keyLen n (nextRc keyLen i rc) (w ++ [t.xor (w.getD (i - keyLen / 4) default)])

/-- The words that come straight from the key: word `i` for `i` in `0..Nk-1` (R151). -/
def keyWords (key : Bytes) : List Word := (List.range (key.length / 4)).map (keyWord key)

/-- `len(key)` as the byte KEYEXPAND puts into `KEY_LEN` (R159). -/
def lengthByte (key : Bytes) : Byte := BitVec.ofNat 8 key.length

/-- The number of words the key expands to: 44, 52 or 60 (R152). -/
def expandedWords (key : Bytes) : Nat := scheduleWords (lengthByte key)

/-- ExpandKey (R155), for a key of 16, 24 or 32 bytes; `rc` starts at 1. -/
def expandKey (key : Bytes) : List Word :=
  expandLoop key.length (expandedWords key - key.length / 4) 1 (keyWords key)

/-- The schedule of this very key is already loaded, so that a KEYEXPAND of it "leaves the same state" (R48). -/
def scheduleLoaded (key : Bytes) (s : State) : Bool :=
  s.ksValid && (s.keyLen == lengthByte key) &&
    (List.range (expandedWords key)).all fun i => ksWord s i == (expandKey key).getD i default

/-- The schedule file after a KEYEXPAND: the expanded key, and from `4*(Nr+1)` on unspecified words (R159), which
are a free draw (log entry 2). -/
def loadedSchedule (key : Bytes) (draw : Nat) : Vector Word 60 :=
  Vector.ofFn fun i =>
    if i.val < expandedWords key then (expandKey key).getD i.val default else Config.freeWord draw i.val

/-- KEYEXPAND's writes (R159): `KS.W`, `KEY_LEN` and `KS_VALID`.  A repetition leaves the same state (R48). -/
def loadKey (key : Bytes) (s : State) : State :=
  if scheduleLoaded key s then s
  else
    { s with
      ksw := loadedSchedule key s.draws
      keyLen := lengthByte key
      ksValid := true
      draws := s.draws + 1 }

/-- KEYEXPAND, opcode 0x01 (R159). -/
def execKeyexpand (s : State) : Host.Outcome State Fault Refusal :=
  unlessFaultHeld s
    (if s.a.length ≠ 16 ∧ s.a.length ≠ 24 ∧ s.a.length ≠ 32 then takeFault .invalidKeyLength s
     else succeed [] (loadKey s.a s))

/-- RKREAD, opcode 0x02: `R <- KS.W[4k] || KS.W[4k+1] || KS.W[4k+2] || KS.W[4k+3]` (R160). -/
def execRkread (s : State) : Host.Outcome State Fault Refusal :=
  unlessFaultHeld s
    (if s.ksValid = false then takeFault .noKeySchedule s
     else if rounds s.keyLen < s.idx.toNat then takeFault .roundKeyIndex s
     else succeed (fromState (roundKey s s.idx.toNat)) s)

/-- KSINFO, opcode 0x03: the number of round keys and `KEY_LEN`, or two zero bytes (R161). -/
def execKsinfo (s : State) : Host.Outcome State Fault Refusal :=
  unlessFaultHeld s
    (if s.ksValid then succeed [BitVec.ofNat 8 (rounds s.keyLen + 1), s.keyLen] s
     else succeed [0x00, 0x00] s)

end Sys2Proof.Machine
end

