-- ==== Sys2Proof/Machine/Dispatch.lean ====
section
/-! DEFINITION. The dispatch: one arm per command, in the order of the opcode map (30_encoding.md R66). -/

namespace Sys2Proof.Machine

def exec (i : Instr) (s : State) : Host.Outcome State Fault Refusal :=
  match i with
  | .keyexpand => Sys2Proof.Machine.execKeyexpand s
  | .rkread => Sys2Proof.Machine.execRkread s
  | .ksinfo => Sys2Proof.Machine.execKsinfo s
  | .encblk => Sys2Proof.Machine.execEncblk s
  | .decblk => Sys2Proof.Machine.execDecblk s
  | .ctrenc => Sys2Proof.Machine.execCtrenc s
  | .ctrdec => Sys2Proof.Machine.execCtrdec s
  | .ctrinc => Sys2Proof.Machine.execCtrinc s
  | .xtime => Sys2Proof.Machine.execXtime s
  | .sbox => Sys2Proof.Machine.execSbox s
  | .invsbox => Sys2Proof.Machine.execInvsbox s
  | .subbytes => Sys2Proof.Machine.execSubbytes s
  | .invsubbytes => Sys2Proof.Machine.execInvsubbytes s
  | .shiftrows => Sys2Proof.Machine.execShiftrows s
  | .invshiftrows => Sys2Proof.Machine.execInvshiftrows s
  | .mixcolumns => Sys2Proof.Machine.execMixcolumns s
  | .invmixcolumns => Sys2Proof.Machine.execInvmixcolumns s
  | .addroundkey => Sys2Proof.Machine.execAddroundkey s

end Sys2Proof.Machine
end

