-- ==== Sys2Proof/Machine/Front.lean ====
section
/-! DEFINITION. The front end: what the engine does with the host's next input (10_state.md R20; 30_encoding.md R65,
R69; 70_reset_and_hazards.md R240, R241). -/

namespace Sys2Proof.Machine

/-- Run the command whose word is on the port `CMD`: decode it, then the command's meaning or ILLEGAL_COMMAND
(R61, R67, R69). -/
def runPresented (s : State) : Host.Outcome State Fault Refusal :=
  match decode s.cmd with
  | .ok i => exec i s
  | .error (.illegalCommand _) => execIllegal s

/-- Take the host's next input.  With none, the engine is idle: "It waits for a command and takes no step of its own"
(R241). -/
def takeInput (s : State) : Host.Outcome State Fault Refusal :=
  match s.pending with
  | [] => .next s
  | .command t :: rest => runPresented (present t rest s)
  | .reset :: rest => .next (takeReset rest s)
  | .resetDuring _ :: rest => .next (takeReset rest s)

/-- The host's next input becomes this transaction, before what it had yet to present. -/
def presentNext (t : Transaction) (s : State) : State :=
  { s with pending := .command t :: s.pending }

end Sys2Proof.Machine
end

