-- ==== Sys2Proof/Machine/Step.lean ====
section
/-! DEFINITION. One step of the machine: one input of the host, taken whole (20_memory.md R47, R51). -/

namespace Sys2Proof.Machine

/-- One step: the host's next transaction with its response, or its RESET (R47, R51, R240). -/
def step (s : State) : Host.Outcome State Fault Refusal := takeInput s

/-- `s` with the instruction whose bits are `w` as the transaction the host presents next.  The engine fetches no
instructions (R53): commands come from the host, and one with no operand written carries the operands R70 gives
(log entry 6). -/
def State.withFetchWord (s : State) (nbits w : Nat) : State :=
  presentNext (bareTransaction (tableCommandWord nbits w)) s

end Sys2Proof.Machine
end

