-- ==== Sys2Proof/Machine/Assembler.lean ====
section
/-! DEFINITION. The textual form of a command, `MNEMONIC [A=<hex>] [B=<hex>] [IDX=<decimal>]`, and of a program
(30_encoding.md R70, R71; D23).  It is notation: no step of the machine uses it.  A line is a list of characters. -/

namespace Sys2Proof.Machine

/-- The name of a command (R66). -/
def mnemonic (i : Instr) : String :=
  match i with
  | .keyexpand => "KEYEXPAND"
  | .rkread => "RKREAD"
  | .ksinfo => "KSINFO"
  | .encblk => "ENCBLK"
  | .decblk => "DECBLK"
  | .ctrenc => "CTRENC"
  | .ctrdec => "CTRDEC"
  | .ctrinc => "CTRINC"
  | .xtime => "XTIME"
  | .sbox => "SBOX"
  | .invsbox => "INVSBOX"
  | .subbytes => "SUBBYTES"
  | .invsubbytes => "INVSUBBYTES"
  | .shiftrows => "SHIFTROWS"
  | .invshiftrows => "INVSHIFTROWS"
  | .mixcolumns => "MIXCOLUMNS"
  | .invmixcolumns => "INVMIXCOLUMNS"
  | .addroundkey => "ADDROUNDKEY"

/-- The command a mnemonic names, if any: the mnemonics are those of the opcode map's rows (R70). -/
def instrNamed (name : List Char) : Option Instr :=
  (opcodeTable.find? fun row => (mnemonic row.instr).toList == name).map fun row => row.instr

/-- "`;` starts a comment that runs to the end of the line" (R70). -/
def stripComment (line : List Char) : List Char := line.takeWhile fun c => c != ';'

/-- Put a character in front of the first item of a list of items. -/
def consFirst (c : Char) (items : List (List Char)) : List (List Char) :=
  match items with
  | [] => [[c]]
  | w :: ws => (c :: w) :: ws

/-- The items of a line between single spaces. -/
def splitSpaces (line : List Char) : List (List Char) :=
  match line with
  | [] => [[]]
  | c :: rest => if c = ' ' then [] :: splitSpaces rest else consFirst c (splitSpaces rest)

/-- The items of a line: what stands between spaces, runs of spaces counting as one. -/
def lineItems (line : List Char) : List (List Char) := (splitSpaces line).filter fun w => !w.isEmpty

/-- The value of a hex digit, of either case. -/
def hexDigit (c : Char) : Option Nat :=
  let n := c.toNat
  if 48 ≤ n ∧ n ≤ 57 then some (n - 48)
  else if 97 ≤ n ∧ n ≤ 102 then some (n - 87)
  else if 65 ≤ n ∧ n ≤ 70 then some (n - 55)
  else none

/-- `<hex>`: "an even number of hex digits, first byte on the left" (R70). -/
def parseHex (digits : List Char) : Option Bytes :=
  match digits with
  | [] => some []
  | [_] => none
  | c :: d :: rest =>
    match hexDigit c, hexDigit d, parseHex rest with
    | some h, some l, some bytes => some (BitVec.ofNat 8 (16 * h + l) :: bytes)
    | _, _, _ => none

/-- The number a list of decimal digits writes, `acc` being what stands before them. -/
def parseDigits (acc : Nat) (digits : List Char) : Option Nat :=
  match digits with
  | [] => some acc
  | c :: rest =>
    if 48 ≤ c.toNat ∧ c.toNat ≤ 57 then parseDigits (10 * acc + (c.toNat - 48)) rest else none

/-- `<decimal>` for the 8-bit port `IDX`: at least one digit, and a value in 0..255 (R62, R70). -/
def parseIdx (digits : List Char) : Option Byte :=
  match digits with
  | [] => none
  | c :: rest =>
    match parseDigits 0 (c :: rest) with
    | some n => if n < 256 then some (BitVec.ofNat 8 n) else none
    | none => none

/-- What stands after a key such as `A=` at the front of an item. -/
def afterKey (key item : List Char) : Option (List Char) :=
  match key, item with
  | [], rest => some rest
  | k :: key', c :: item' => if k = c then afterKey key' item' else none
  | _ :: _, [] => none

/-- Read an optional field: its value by `read` if the next item carries the key, `absent` if it does not. -/
def parseField {α : Type} (key : List Char) (absent : α) (read : List Char → Option α)
    (items : List (List Char)) : Option (α × List (List Char)) :=
  match items with
  | [] => some (absent, [])
  | item :: rest =>
    match afterKey key item with
    | none => some (absent, item :: rest)
    | some text =>
      match read text with
      | some v => some (v, rest)
      | none => none

/-- The three operand fields of a line, in the order R70 writes them: "An operand not written is the empty string for A
and B, and 0 for IDX." -/
def parseOperands (i : Instr) (items : List (List Char)) : Option Command :=
  match parseField ['A', '='] [] parseHex items with
  | none => none
  | some (a, items1) =>
    match parseField ['B', '='] [] parseHex items1 with
    | none => none
    | some (b, items2) =>
      match parseField ['I', 'D', 'X', '='] 0 parseIdx items2 with
      | some (idx, []) => some { instr := i, a := a, b := b, idx := idx }
      | some (_, _ :: _) => none
      | none => none

/-- Read one line (R70). -/
def assembleLine (line : List Char) : Option Command :=
  match lineItems (stripComment line) with
  | [] => none
  | name :: items =>
    match instrNamed name with
    | none => none
    | some i => parseOperands i items

/-- Read a program, one command a line, into its encoding: "for each command, its opcode byte and its operand strings"
(R71). -/
def assembleProgram (lines : List (List Char)) : Option (List Transaction) :=
  match lines with
  | [] => some []
  | line :: rest =>
    match assembleLine line, assembleProgram rest with
    | some c, some ts => some (encodeCommand c :: ts)
    | _, _ => none

/-- Two hex digits of a byte. -/
def printByte (x : Byte) : List Char := [Nat.digitChar (x.toNat / 16), Nat.digitChar (x.toNat % 16)]

/-- `<hex>` of a byte string (R70). -/
def printHex (bytes : Bytes) : List Char :=
  match bytes with
  | [] => []
  | x :: rest => printByte x ++ printHex rest

/-- `<decimal>` of `IDX`, without leading zeros (R70). -/
def printIdx (x : Byte) : List Char :=
  let n := x.toNat
  if n < 10 then [Nat.digitChar n]
  else if n < 100 then [Nat.digitChar (n / 10), Nat.digitChar (n % 10)]
  else [Nat.digitChar (n / 100), Nat.digitChar (n / 10 % 10), Nat.digitChar (n % 10)]

/-- Write a command with all three operands (R70). -/
def printCommand (c : Command) : List Char :=
  (mnemonic c.instr).toList ++ [' ', 'A', '='] ++ printHex c.a ++ [' ', 'B', '='] ++ printHex c.b
    ++ [' ', 'I', 'D', 'X', '='] ++ printIdx c.idx

end Sys2Proof.Machine
end

