-- ==== Sys2Proof/Safety.lean ====
section
/-! DEFINITION. The terms claims are stated in: how a command ends, the spec's tables of operands and faults as
functions, the invariant of reachable states, and runs (30_encoding.md R63, R64; 60_exceptions.md R211, R214;
10_state.md R22, R24; 70_reset_and_hazards.md R246). -/

namespace Sys2Proof.Machine

/-- The command succeeds from `s` with the result string `r` and leaves everything else as it was (R63, R29). -/
def Succeeds (i : Instr) (s : State) (r : Bytes) : Prop :=
  exec i s = .next { s with responses := s.responses ++ [{ status := 0x00, r := r }] }

/-- The command faults from `s` with this code: `FAULT` and `STATUS` are the code, `R` is empty, and everything else is
as it was (R213). -/
def FaultsWith (i : Instr) (s : State) (code : Byte) : Prop :=
  exec i s = .next { s with fault := code, responses := s.responses ++ [{ status := code, r := [] }] }

/-- The commands that require `KS_VALID = 1` (R211 code 2). -/
def needsSchedule (i : Instr) : Bool :=
  match i with
  | .rkread | .encblk | .decblk | .ctrenc | .ctrdec => true
  | .keyexpand | .ksinfo | .ctrinc | .xtime | .sbox | .invsbox | .subbytes | .invsubbytes | .shiftrows
  | .invshiftrows | .mixcolumns | .invmixcolumns | .addroundkey => false

/-- The operand fault code of R64's table for a command with the operands on the ports of `s`, or 0 where its operands
have the required lengths. -/
def operandFault (i : Instr) (s : State) : Byte :=
  match i with
  | .keyexpand => if s.a.length = 16 ∨ s.a.length = 24 ∨ s.a.length = 32 then 0 else 3
  | .rkread => if s.idx.toNat ≤ rounds s.keyLen then 0 else 7
  | .ksinfo => 0
  | .encblk | .decblk => if s.a.length = 16 then 0 else 4
  | .ctrenc | .ctrdec => if s.b.length = 16 then 0 else 5
  | .xtime | .sbox | .invsbox => if s.a.length = 1 then 0 else 6
  | .ctrinc | .subbytes | .invsubbytes | .shiftrows | .invshiftrows | .mixcolumns | .invmixcolumns =>
    if s.a.length = 16 then 0 else 6
  | .addroundkey => if s.a.length = 16 ∧ s.b.length = 16 then 0 else 6

/-- The first cause of R214 that applies to a command while no fault is held: no schedule, then the operands; 0 for
none. -/
def firstFault (i : Instr) (s : State) : Byte :=
  if needsSchedule i = true ∧ s.ksValid = false then 2 else operandFault i s

/-- The column "R on success" of R64: the length of the result string. -/
def resultLength (i : Instr) (s : State) : Nat :=
  match i with
  | .keyexpand => 0
  | .ksinfo => 2
  | .ctrenc | .ctrdec => s.a.length
  | .xtime | .sbox | .invsbox => 1
  | .rkread | .encblk | .decblk | .ctrinc | .subbytes | .invsubbytes | .shiftrows | .invshiftrows
  | .mixcolumns | .invmixcolumns | .addroundkey => 16

/-- The commands that read the operand port `A` (R64). -/
def readsA (i : Instr) : Bool :=
  match i with
  | .rkread | .ksinfo => false
  | .keyexpand | .encblk | .decblk | .ctrenc | .ctrdec | .ctrinc | .xtime | .sbox | .invsbox | .subbytes
  | .invsubbytes | .shiftrows | .invshiftrows | .mixcolumns | .invmixcolumns | .addroundkey => true

/-- The commands that read the operand port `B` (R64). -/
def readsB (i : Instr) : Bool :=
  match i with
  | .ctrenc | .ctrdec | .addroundkey => true
  | .keyexpand | .rkread | .ksinfo | .encblk | .decblk | .ctrinc | .xtime | .sbox | .invsbox | .subbytes
  | .invsubbytes | .shiftrows | .invshiftrows | .mixcolumns | .invmixcolumns => false

/-- The commands that read the operand port `IDX`: "only RKREAD reads it" (R68). -/
def readsIdx (i : Instr) : Bool :=
  match i with
  | .rkread => true
  | .keyexpand | .ksinfo | .encblk | .decblk | .ctrenc | .ctrdec | .ctrinc | .xtime | .sbox | .invsbox
  | .subbytes | .invsubbytes | .shiftrows | .invshiftrows | .mixcolumns | .invmixcolumns | .addroundkey => false

/-- Two outcomes agree on all the host can ever see of one command and on the registers other than `KS.W`: both are next
states with the same `KS_VALID`, `KEY_LEN`, `FAULT` and responses. -/
def SameAnswer (x y : Host.Outcome State Fault Refusal) : Prop :=
  ∃ t u, x = .next t ∧ y = .next u ∧ t.ksValid = u.ksValid ∧ t.keyLen = u.keyLen ∧ t.fault = u.fault ∧
    t.responses = u.responses

/-- The invariant of the reachable states: a legal `KEY_LEN`, 0 exactly while no schedule is loaded (R22); a `FAULT` that
is one of the codes 0..7 (R211, U13); while `KS_VALID = 1`, the expansion of some key of that length in the schedule file
(R24); and responses of the form R63 gives them. -/
structure State.Inv (s : State) : Prop where
  keyLenLegal : s.keyLen = 0 ∨ s.keyLen = 16 ∨ s.keyLen = 24 ∨ s.keyLen = 32
  keyLenZero : s.keyLen = 0 ↔ s.ksValid = false
  faultLegal : s.fault.toNat ≤ 7
  scheduleHeld : s.ksValid = true →
    ∃ key : Bytes, key.length = s.keyLen.toNat ∧
      ∀ i, i < scheduleWords s.keyLen → ksWord s i = (expandKey key).getD i default
  responsesLegal : ∀ p ∈ s.responses, p.status.toNat ≤ 7 ∧ (p.status ≠ 0 → p.r = [])

/-- A run has recorded no fault: the premise R246 asks of a claim about a run, "`FAULT = 0` at the end". -/
def State.NoFaultRecorded (s : State) : Prop := s.fault = codeNone

/-- "A run in which any response has `STATUS != 0` has faulted" (R246), by the responses its final state holds. -/
def State.RunFaulted (s : State) : Prop := ∃ p ∈ s.responses, p.status ≠ codeNone

/-- The input is a transaction, which gets a response.  A RESET gets none, and neither does the command that a RESET
abandons (R240, R247). -/
def getsResponse (x : HostInput) : Bool :=
  match x with
  | .command _ => true
  | .reset => false
  | .resetDuring _ => false

/-- The part of the host's inputs that is a run: it "ends after the response to its last transaction" (R246), so the
inputs after the last one that gets a response are no part of it. -/
def runPart (inputs : List HostInput) : List HostInput := inputs.rdropWhile fun x => !getsResponse x

/-- The machine after reset with a host that will make these inputs: "starting from reset" (R246). -/
def State.load (inputs : List HostInput) : State := { State.reset with pending := inputs }

/-- A run: "a finite sequence of transactions and resets, starting from reset", to the response to its last transaction.
Its final state is "the persistent state of 10_state.md at that point, together with the list of responses" (R246).  A run
that gets no response ends where it starts (log entry 13). -/
def runInputs (inputs : List HostInput) : Host.Outcome State Fault Refusal :=
  Sys2Proof.core.run (runPart inputs).length (State.load (runPart inputs))

end Sys2Proof.Machine
end

