-- ==== Sys2Proof/Certificates/Slice0/Obligations.lean ====
section
/-! DEFINITION. The statements for the provers, from the numbered rules of spec/: the front end and faults, the
component commands, the key schedule, the block cipher, counter mode, and the whole machine. -/

open Sys2Proof Sys2Proof.Machine

/-! ### Encoding and the front end -/

/-- R69: "each of the 256 values decodes to one of the 18 commands of rule R66 or to ILLEGAL_COMMAND", and the one it
decodes to is the command with that opcode. -/
def Obligations.DecoderIsTotalOnCommandWords : Prop :=
  ∀ cmd : Byte,
    (∃ i, decode cmd = .ok i ∧ encode i = cmd) ∨
      (decode cmd = .error (.illegalCommand cmd) ∧ ∀ i, encode i ≠ cmd)

/-- R66: the 18 rows of the opcode map, word by word, and "Every value not listed is illegal". -/
def Obligations.OpcodeMapWordsDecode : Prop :=
  (decode 0x01 = .ok .keyexpand ∧ decode 0x02 = .ok .rkread ∧ decode 0x03 = .ok .ksinfo ∧
    decode 0x04 = .ok .encblk ∧ decode 0x05 = .ok .decblk ∧ decode 0x06 = .ok .ctrenc ∧
    decode 0x07 = .ok .ctrdec ∧ decode 0x08 = .ok .ctrinc ∧ decode 0x10 = .ok .xtime ∧
    decode 0x11 = .ok .sbox ∧ decode 0x12 = .ok .invsbox ∧ decode 0x13 = .ok .subbytes ∧
    decode 0x14 = .ok .invsubbytes ∧ decode 0x15 = .ok .shiftrows ∧ decode 0x16 = .ok .invshiftrows ∧
    decode 0x17 = .ok .mixcolumns ∧ decode 0x18 = .ok .invmixcolumns ∧ decode 0x19 = .ok .addroundkey) ∧
  ∀ cmd : Byte, cmd = 0x00 ∨ (0x09 ≤ cmd ∧ cmd ≤ 0x0F) ∨ 0x1A ≤ cmd →
    decode cmd = .error (.illegalCommand cmd)

/-- R68, R71: a command's encoding decodes to it with every operand at every value, and a transaction that decodes is the
encoding of what it decodes to. -/
def Obligations.CommandEncodingRoundTrip : Prop :=
  (∀ c : Command, decodeTransaction (encodeCommand c) = .ok c) ∧
    ∀ (t : Transaction) (c : Command), decodeTransaction t = .ok c → encodeCommand c = t

/-- R70, R71: the textual form loses nothing.  A command printed with its operands, whatever their values and lengths, is
read back as that command.  What R70 leaves open in the notation is the model's choice (log entry 9). -/
def Obligations.AssemblerReadsBackPrintedCommand : Prop :=
  ∀ c : Command, assembleLine (printCommand c) = some c

/-- R70, R71: an operand not written is empty, or 0 for IDX; a comment is ignored; and the example of R71 has the encoding
R71 gives it. -/
def Obligations.AssemblerDefaultsAndExample : Prop :=
  (∀ i : Instr, assembleLine ((mnemonic i).toList ++ [' ', ';', 'A', '=', '0']) =
      some { instr := i, a := [], b := [], idx := 0 }) ∧
    assembleProgram ["ENCBLK A=00112233445566778899aabbccddeeff".toList] =
      some [{ cmd := 0x04, a := [0x00, 0x11, 0x22, 0x33, 0x44, 0x55, 0x66, 0x77, 0x88, 0x99, 0xaa, 0xbb, 0xcc, 0xdd, 0xee, 0xff],
              b := [], idx := 0 }]

/-- R20, R60, R65, R69: when the host's next input is a transaction whose command word decodes to `i`, the step is exactly
`exec i` on the state with that transaction on the ports and taken from what the host has yet to present.  The well-formed
transactions are all of them under the bound this model takes (log entry 3); that the ports and what the host has yet to
present are fields of the state is the model's choice (log entry 5). -/
def Obligations.StepRunsDecodedCommand : Prop :=
  ∀ (s : State) (t : Transaction) (rest : List HostInput) (i : Instr),
    s.pending = .command t :: rest → decode t.cmd = .ok i →
      step s = exec i { s with cmd := t.cmd, a := t.a, b := t.b, idx := t.idx, pending := rest }

/-- R241: with no input of the host, the engine "waits for a command and takes no step of its own".  That the model's
step then answers the same state is the model's choice (log entry 7). -/
def Obligations.StepWithoutInputIsIdle : Prop :=
  ∀ s : State, s.pending = [] → step s = .next s

/-- R67: a command word in 0x00, 0x09..0x0F or 0x1A..0xFF, 238 values in all, faults with code 1 whatever the operands
are, and changes no state of the engine except `FAULT`. -/
def Obligations.IllegalCommandFaultsAndChangesNothingElse : Prop :=
  (∀ (s : State) (t : Transaction) (rest : List HostInput),
    s.pending = .command t :: rest → s.fault = 0 →
    (t.cmd = 0x00 ∨ (0x09 ≤ t.cmd ∧ t.cmd ≤ 0x0F) ∨ 0x1A ≤ t.cmd) →
      step s = .next
        { s with
          cmd := t.cmd, a := t.a, b := t.b, idx := t.idx, pending := rest
          fault := 1, responses := s.responses ++ [{ status := 1, r := [] }] }) ∧
  ((List.range 256).filter fun n => decodeTableWord 8 n == none).length = 238

/-- R240, R215: RESET, between commands or during one, clears `KS_VALID`, `KEY_LEN` and `FAULT`, gives no response and runs
no command; nothing but RESET clears `FAULT`.  That the ports keep what they held is the model's choice (log entry 5). -/
def Obligations.ResetClearsAndOnlyResetClearsFault : Prop :=
  (∀ (s : State) (t : Transaction) (rest : List HostInput),
    s.pending = .reset :: rest ∨ s.pending = .resetDuring t :: rest →
      ∃ u, step s = .next u ∧ u.ksValid = false ∧ u.keyLen = 0 ∧ u.fault = 0 ∧ u.responses = s.responses ∧
        u.pending = rest ∧ u.cmd = s.cmd ∧ u.a = s.a ∧ u.b = s.b ∧ u.idx = s.idx) ∧
  ∀ s u : State, s.fault ≠ 0 → step s = .next u →
    u.fault = s.fault ∨ ∃ t rest, s.pending = .reset :: rest ∨ s.pending = .resetDuring t :: rest

/-- R21, R22, R25: the reset values the spec gives.  `KS.W` has none and is a free value (log entry 1), so it is not in
the statement. -/
def Obligations.ResetValuesOfTheRegisters : Prop :=
  State.reset.ksValid = false ∧ State.reset.keyLen = 0 ∧ State.reset.fault = 0

/-- R212: "A command presented while `FAULT != 0` is not executed": any command word, legal or not, is answered with the
held code and an empty `R`, and no state changes. -/
def Obligations.HeldFaultAnswersEveryCommand : Prop :=
  ∀ s : State, s.fault ≠ 0 →
    runPresented s = .next { s with responses := s.responses ++ [{ status := s.fault, r := [] }] } ∧
    ∀ i, exec i s = .next { s with responses := s.responses ++ [{ status := s.fault, r := [] }] }

/-- R213: a command that raises a fault leaves the state exactly as it was, with only `FAULT` changed, and answers the code
with an empty `R`.  It holds of a legal command and of an illegal command word. -/
def Obligations.FaultEntryIsPrecise : Prop :=
  ∀ s t : State, s.fault = 0 → runPresented s = .next t → t.fault ≠ 0 →
    t = { s with fault := t.fault, responses := s.responses ++ [{ status := t.fault, r := [] }] }

/-- R64, R211, R214: while no fault is held, a command faults exactly with the first cause that applies (no schedule, then
its operands), and where none applies it succeeds with a result of the length R64 gives. -/
def Obligations.OperandTableDecidesFaultOrResult : Prop :=
  ∀ (i : Instr) (s : State), s.fault = 0 →
    (firstFault i s ≠ 0 → FaultsWith i s (firstFault i s)) ∧
    (firstFault i s = 0 →
      ∃ t r, exec i s = .next t ∧ t.fault = 0 ∧ t.responses = s.responses ++ [{ status := 0, r := r }] ∧
        r.length = resultLength i s)

/-- R63: every command gives exactly one response, its `STATUS` is the value of `FAULT` after the command, and `R` is empty
unless `STATUS = 0x00`. -/
def Obligations.EveryCommandGivesOneResponse : Prop :=
  ∀ (s t : State), runPresented s = .next t →
    ∃ r, t.responses = s.responses ++ [{ status := t.fault, r := r }] ∧ (t.fault ≠ 0 → r = [])

/-- R29, R48: every command other than KEYEXPAND leaves `KS_VALID`, `KEY_LEN`, `KS.W`, the ports and what the host has yet
to present as they were: it changes at most `FAULT` and the responses.  KEYEXPAND may also write the first three. -/
def Obligations.CommandsWriteOnlyTheirState : Prop :=
  ∀ (i : Instr) (s t : State), exec i s = .next t →
    (i ≠ .keyexpand → t = { s with fault := t.fault, responses := t.responses }) ∧
    t = { s with ksValid := t.ksValid, keyLen := t.keyLen, ksw := t.ksw, draws := t.draws, fault := t.fault,
                 responses := t.responses }

/-- R62, R64, R68: an operand port that a command does not read cannot change what it does: neither its answer nor a fault
nor the schedule file. -/
def Obligations.UnusedOperandsAreIgnored : Prop :=
  ∀ (i : Instr) (s : State) (a' b' : Bytes) (idx' : Byte),
    (readsA i = true → a' = s.a) → (readsB i = true → b' = s.b) → (readsIdx i = true → idx' = s.idx) →
    ∃ t, exec i s = .next t ∧
      exec i { s with a := a', b := b', idx := idx' } = .next { t with a := a', b := b', idx := idx' }

/-- R211: "No computation can fault", and every command completes: no step of the machine ends in a fault or a refusal.
That no payload is refused is the model's choice of MAX_CTR_LEN (log entry 3). -/
def Obligations.EveryStepGivesANextState : Prop :=
  ∀ s : State, ∃ t, step s = .next t

/-! ### The tables and GF(2^8) -/

/-- R100: `xtime(a)` as the rule's formula on numbers, the shift being at least 9 bits wide before the mask. -/
def Obligations.XtimeIsDoublingWithReduction : Prop :=
  ∀ a : Byte,
    (xtime a).toNat =
      if a.getLsbD 7 = true then ((a.toNat * 2) ^^^ 0x1B) &&& 0xFF else (a.toNat * 2) &&& 0xFF

/-- R101: `xtime` is linear over XOR and a bijection on bytes, has the values listed, and applied twice is multiplication
by 0x04; `gmul` by a byte is linear too. -/
def Obligations.XtimeLaws : Prop :=
  (∀ a b : Byte, xtime (a ^^^ b) = xtime a ^^^ xtime b) ∧ Function.Bijective xtime ∧
    (xtime 0x00 = 0x00 ∧ xtime 0x80 = 0x1B ∧ xtime 0xFF = 0xE5) ∧
    (∀ a : Byte, xtime (xtime a) = gmul a 0x04) ∧
    ∀ a b c : Byte, gmul (a ^^^ b) c = gmul a c ^^^ gmul b c

/-- R103: on every byte the SBOX ROM equals the algebraic definition: every byte `x` has an inverse, and for whichever byte
`b` is an inverse of `x`, `SBOX[x]` is the affine map of `b`; there is no fixed point and no opposite fixed point. -/
def Obligations.SboxRomIsTheAlgebraicSbox : Prop :=
  (∀ x : Byte, ∃ b : Byte, isGfInverse x b = true) ∧
  (∀ x b : Byte, isGfInverse x b = true → sbox x = sboxAffine b) ∧
  ∀ x : Byte, sbox x ≠ x ∧ sbox x ≠ x ^^^ 0xFF

/-- R105: "`inv[sub[x]] = x` for all x", and the converse. -/
def Obligations.InverseSboxLaw : Prop :=
  (∀ x : Byte, invSbox (sbox x) = x) ∧ ∀ y : Byte, sbox (invSbox y) = y

/-- R106: the ten entries of RCON, and the recurrence they satisfy. -/
def Obligations.RoundConstants : Prop :=
  (rcon 1 = 0x01 ∧ rcon 2 = 0x02 ∧ rcon 3 = 0x04 ∧ rcon 4 = 0x08 ∧ rcon 5 = 0x10 ∧ rcon 6 = 0x20 ∧
    rcon 7 = 0x40 ∧ rcon 8 = 0x80 ∧ rcon 9 = 0x1B ∧ rcon 10 = 0x36) ∧
  ∀ i : Nat, 1 ≤ i → i < 10 → rcon (i + 1) = xtime (rcon i)

/-! ### The component commands -/

/-- R10, R43: a 16-byte string is read as a state matrix column-major, `S[c][r] = b[4*c + r]`, and serialised back; the two
directions are inverse to each other. -/
def Obligations.BlocksAreColumnMajor : Prop :=
  (∀ (b : Bytes) (c r : Fin 4), (toState b).get c r = b.getD (4 * c.val + r.val) 0) ∧
  (∀ (S : Matrix) (c r : Fin 4), (fromState S).getD (4 * c.val + r.val) 0 = S.get c r) ∧
  (∀ S : Matrix, (fromState S).length = 16 ∧ toState (fromState S) = S) ∧
  ∀ b : Bytes, b.length = 16 → fromState (toState b) = b

/-- R107, R108, R109: each one-byte command answers its function of the byte in `A` and changes nothing else; on any other
length of `A` it faults with INVALID_OPERAND_LENGTH. -/
def Obligations.ByteCommandsAnswerTheirFunction : Prop :=
  ∀ s : State, s.fault = 0 →
    (∀ x : Byte, s.a = [x] →
      Succeeds .xtime s [xtime x] ∧ Succeeds .sbox s [sbox x] ∧ Succeeds .invsbox s [invSbox x]) ∧
    (s.a.length ≠ 1 → FaultsWith .xtime s 6 ∧ FaultsWith .sbox s 6 ∧ FaultsWith .invsbox s 6)

/-- R120, R121, R130, R131: SUBBYTES and INVSUBBYTES replace each byte of `A` in its place, through SBOX and INV_SBOX, and
change nothing else. -/
def Obligations.SubBytesCommandsMapEachByte : Prop :=
  ∀ s : State, s.fault = 0 → s.a.length = 16 →
    Succeeds .subbytes s (s.a.map sbox) ∧ Succeeds .invsubbytes s (s.a.map invSbox)

/-- R122, R123, R132, R133: SHIFTROWS and INVSHIFTROWS give the bytes of `A` in the orders R122 and R123 list, and change
nothing else. -/
def Obligations.ShiftRowsCommandsPermuteBytes : Prop :=
  ∀ s : State, s.fault = 0 → s.a.length = 16 →
    Succeeds .shiftrows s
      ([0, 5, 10, 15, 4, 9, 14, 3, 8, 13, 2, 7, 12, 1, 6, 11].map fun j => s.a.getD j 0) ∧
    Succeeds .invshiftrows s
      ([0, 13, 10, 7, 4, 1, 14, 11, 8, 5, 2, 15, 12, 9, 6, 3].map fun j => s.a.getD j 0)

/-- R124, R125, R134: MIXCOLUMNS answers 16 bytes of which byte `4c+i` is `a_i ^ t ^ xtime(a_i ^ a_(i+1))` on the bytes
`a_0 .. a_3` of column `c` of `A`, with `t` their XOR and indices mod 4, and changes nothing else. -/
def Obligations.MixColumnsCommandMixesEachColumn : Prop :=
  ∀ s : State, s.fault = 0 → s.a.length = 16 →
    ∃ r : Bytes, Succeeds .mixcolumns s r ∧ r.length = 16 ∧
      ∀ c i : Nat, c < 4 → i < 4 →
        let a := fun j => s.a.getD (4 * c + j % 4) 0
        r.getD (4 * c + i) 0 = a i ^^^ (a 0 ^^^ a 1 ^^^ a 2 ^^^ a 3) ^^^ xtime (a i ^^^ a (i + 1))

/-- R126, R129, R135: INVMIXCOLUMNS answers 16 bytes of which byte `4c+i` is the matrix form with the coefficients 0E, 0B,
0D, 09 of R129 on column `c` of `A`, and changes nothing else. -/
def Obligations.InvMixColumnsCommandIsTheInverseMatrix : Prop :=
  ∀ s : State, s.fault = 0 → s.a.length = 16 →
    ∃ r : Bytes, Succeeds .invmixcolumns s r ∧ r.length = 16 ∧
      ∀ c i : Nat, c < 4 → i < 4 →
        let a := fun j => s.a.getD (4 * c + j % 4) 0
        r.getD (4 * c + i) 0 =
          gmul (a i) 0x0E ^^^ gmul (a (i + 1)) 0x0B ^^^ gmul (a (i + 2)) 0x0D ^^^ gmul (a (i + 3)) 0x09

/-- R129: the two column functions equal their matrix forms over GF(2^8), for every column. -/
def Obligations.ColumnFunctionsEqualMatrixForms : Prop :=
  ∀ (w : Word) (i : Fin 4),
    (mixColumn w).get i =
      gmul (w.get i) 0x02 ^^^ gmul (w.get (i + 1)) 0x03 ^^^ w.get (i + 2) ^^^ w.get (i + 3) ∧
    (invMixColumn w).get i =
      gmul (w.get i) 0x0E ^^^ gmul (w.get (i + 1)) 0x0B ^^^ gmul (w.get (i + 2)) 0x0D ^^^ gmul (w.get (i + 3)) 0x09

/-- R127, R136: ADDROUNDKEY answers `A[i] ^ B[i]` for `i` in 0..15 and changes nothing else, and with the same `B` it gives `A`
back from its answer ("self-inverse"); a wrong length of `A`, `B` or both is one INVALID_OPERAND_LENGTH. -/
def Obligations.AddRoundKeyCommandXorsTheOperands : Prop :=
  ∀ s : State, s.fault = 0 →
    (s.a.length = 16 → s.b.length = 16 →
      let r := (List.range 16).map fun i => s.a.getD i 0 ^^^ s.b.getD i 0
      Succeeds .addroundkey s r ∧ Succeeds .addroundkey { s with a := r } s.a) ∧
    (s.a.length ≠ 16 ∨ s.b.length ≠ 16 → FaultsWith .addroundkey s 6)

/-- R121, R123, R127, R128: each transform is undone by its inverse, in both orders, and AddRoundKey by itself. -/
def Obligations.TransformsAreUndoneByTheirInverses : Prop :=
  ∀ S K : Matrix,
    (invSubBytes (subBytes S) = S ∧ subBytes (invSubBytes S) = S) ∧
    (invShiftRows (shiftRows S) = S ∧ shiftRows (invShiftRows S) = S) ∧
    (invMixColumns (mixColumns S) = S ∧ mixColumns (invMixColumns S) = S) ∧
    addRoundKey (addRoundKey S K) K = S

/-- R128: the linear transforms over XOR, where `addRoundKey` is the XOR of two matrices; the byte-wise substitutions commute
with the row shifts; a column of four equal bytes is fixed by both column mixes; and the all-zero matrix is fixed. -/
def Obligations.TransformLaws : Prop :=
  (∀ S T : Matrix,
    mixColumns (addRoundKey S T) = addRoundKey (mixColumns S) (mixColumns T) ∧
    invMixColumns (addRoundKey S T) = addRoundKey (invMixColumns S) (invMixColumns T) ∧
    shiftRows (addRoundKey S T) = addRoundKey (shiftRows S) (shiftRows T) ∧
    invShiftRows (addRoundKey S T) = addRoundKey (invShiftRows S) (invShiftRows T)) ∧
  (∀ S : Matrix,
    subBytes (shiftRows S) = shiftRows (subBytes S) ∧ subBytes (invShiftRows S) = invShiftRows (subBytes S) ∧
    invSubBytes (shiftRows S) = shiftRows (invSubBytes S) ∧
    invSubBytes (invShiftRows S) = invShiftRows (invSubBytes S)) ∧
  (∀ x : Byte, mixColumn ⟨x, x, x, x⟩ = ⟨x, x, x, x⟩ ∧ invMixColumn ⟨x, x, x, x⟩ = ⟨x, x, x, x⟩) ∧
  let Z : Matrix := Matrix.ofFn fun _ _ => 0x00
  shiftRows Z = Z ∧ mixColumns Z = Z ∧ invMixColumns Z = Z ∧ addRoundKey Z Z = Z

/-! ### The key schedule -/

/-- R150, R151, R152, R155, R156: the expansion of a key of 16, 24 or 32 bytes has 44, 52 or 60 words; the first Nk are the
key's; and each later word is `t ^ w[i-Nk]` with `t` from `w[i-1]` by the three cases of R155, the round constant of a
multiple `i` of Nk being `RCON[i/Nk]`, entries 1 to 10 only. -/
def Obligations.ExpandedKeyObeysTheRecurrence : Prop :=
  ∀ (key : Bytes) (nk nr : Nat), key.length = 4 * nk → (nk = 4 ∧ nr = 10 ∨ nk = 6 ∧ nr = 12 ∨ nk = 8 ∧ nr = 14) →
    let w := fun i => (expandKey key).getD i default
    (expandKey key).length = 4 * (nr + 1) ∧
    (∀ i, i < nk →
      w i = ⟨key.getD (4 * i) 0, key.getD (4 * i + 1) 0, key.getD (4 * i + 2) 0, key.getD (4 * i + 3) 0⟩) ∧
    ∀ i, nk ≤ i → i < 4 * (nr + 1) →
      (i % nk = 0 → 1 ≤ i / nk ∧ i / nk ≤ 10 ∧
        w i = (addRcon (i / nk) (subWord (rotWord (w (i - 1))))).xor (w (i - nk))) ∧
      (i % nk ≠ 0 → nk = 8 ∧ i % nk = 4 → w i = (subWord (w (i - 1))).xor (w (i - nk))) ∧
      (i % nk ≠ 0 → ¬(nk = 8 ∧ i % nk = 4) → w i = (w (i - 1)).xor (w (i - nk)))

/-- R153, R154: "Byte 0 of the result is `p1`", and every byte is substituted; the round constant goes into byte 0 only
(R155). -/
def Obligations.KeyWordOperations : Prop :=
  ∀ p0 p1 p2 p3 : Byte,
    rotWord ⟨p0, p1, p2, p3⟩ = ⟨p1, p2, p3, p0⟩ ∧
    subWord ⟨p0, p1, p2, p3⟩ = ⟨sbox p0, sbox p1, sbox p2, sbox p3⟩ ∧
    ∀ rc, addRcon rc ⟨p0, p1, p2, p3⟩ = ⟨p0 ^^^ rcon rc, p1, p2, p3⟩

/-- R159: with no fault held, a KEYEXPAND of a 16-, 24- or 32-byte key succeeds with an empty `R`, whatever schedule was
loaded: `KS.W[0 .. 4*(Nr+1)-1]` is the expanded key, `KEY_LEN` its length, `KS_VALID` 1, and nothing else changes (the entries
above are unspecified, R159, and `draws` is the model's own field). -/
def Obligations.KeyExpandLoadsTheSchedule : Prop :=
  ∀ s : State, s.fault = 0 → (s.a.length = 16 ∨ s.a.length = 24 ∨ s.a.length = 32) →
    ∃ t, exec .keyexpand s = .next t ∧ t.ksValid = true ∧ t.keyLen.toNat = s.a.length ∧
      (∀ i, i < 4 * (rounds t.keyLen + 1) → ksWord t i = (expandKey s.a).getD i default) ∧
      t = { s with ksValid := true, keyLen := t.keyLen, ksw := t.ksw, draws := t.draws,
                   responses := s.responses ++ [{ status := 0, r := [] }] }

/-- R150, R159, R213: any other key length faults with INVALID_KEY_LENGTH, and a schedule loaded before stays as it was. -/
def Obligations.KeyExpandRejectsOtherLengths : Prop :=
  ∀ s : State, s.fault = 0 → s.a.length ≠ 16 → s.a.length ≠ 24 → s.a.length ≠ 32 → FaultsWith .keyexpand s 3

/-- R48: "KEYEXPAND with the same key, repeated, leaves the same state": after one that succeeded, the next changes nothing
but the responses. -/
def Obligations.RepeatedKeyExpandLeavesTheState : Prop :=
  ∀ s t : State, s.fault = 0 → (s.a.length = 16 ∨ s.a.length = 24 ∨ s.a.length = 32) →
    exec .keyexpand s = .next t → Succeeds .keyexpand t []

/-- R157, R160: with a schedule loaded and `IDX` at most Nr, RKREAD answers the four words of that round key, column by
column, and changes nothing else; above Nr it faults with ROUND_KEY_INDEX, and without a schedule with NO_KEY_SCHEDULE. -/
def Obligations.RoundKeyReadAnswersFourWords : Prop :=
  ∀ s : State, s.fault = 0 →
    (s.ksValid = true → s.idx.toNat ≤ rounds s.keyLen →
      Succeeds .rkread s
        ((ksWord s (4 * s.idx.toNat)).toBytes ++ (ksWord s (4 * s.idx.toNat + 1)).toBytes ++
          (ksWord s (4 * s.idx.toNat + 2)).toBytes ++ (ksWord s (4 * s.idx.toNat + 3)).toBytes)) ∧
    (s.ksValid = true → rounds s.keyLen < s.idx.toNat → FaultsWith .rkread s 7) ∧
    (s.ksValid = false → FaultsWith .rkread s 2)

/-- R151, R160: after a KEYEXPAND, `RKREAD IDX=0` answers the MasterKey's first 16 bytes. -/
def Obligations.RoundKeyZeroIsTheMasterKey : Prop :=
  ∀ s t : State, s.fault = 0 → (s.a.length = 16 ∨ s.a.length = 24 ∨ s.a.length = 32) →
    exec .keyexpand s = .next t → Succeeds .rkread { t with idx := 0 } (s.a.take 16)

/-- R161, R23: KSINFO answers `0b10`, `0d18` and `0f20` for the key lengths 16, 24 and 32, and `0000` while no schedule is
loaded, and changes nothing else. -/
def Obligations.ScheduleInfoAnswersLengths : Prop :=
  ∀ s : State, s.fault = 0 →
    (s.ksValid = true → s.keyLen = 16 → Succeeds .ksinfo s [0x0b, 0x10]) ∧
    (s.ksValid = true → s.keyLen = 24 → Succeeds .ksinfo s [0x0d, 0x18]) ∧
    (s.ksValid = true → s.keyLen = 32 → Succeeds .ksinfo s [0x0f, 0x20]) ∧
    (s.ksValid = false → Succeeds .ksinfo s [0x00, 0x00])

/-! ### The block cipher -/

/-- R171, R172, R173: with a schedule loaded, ENCBLK of a 16-byte block answers EncryptBlock: AddRoundKey with `RK(0)`; for
the rounds 1..Nr-1 in increasing order SubBytes, ShiftRows, MixColumns, AddRoundKey; then SubBytes, ShiftRows and AddRoundKey
with `RK(Nr)`, with no MixColumns; and it changes nothing else. -/
def Obligations.EncryptCommandRunsTheRounds : Prop :=
  ∀ s : State, s.fault = 0 → s.ksValid = true → s.a.length = 16 →
    let first := addRoundKey (toState s.a) (roundKey s 0)
    let middle := (List.range' 1 (rounds s.keyLen - 1)).foldl
      (fun S k => addRoundKey (mixColumns (shiftRows (subBytes S))) (roundKey s k)) first
    Succeeds .encblk s (fromState (addRoundKey (shiftRows (subBytes middle)) (roundKey s (rounds s.keyLen))))

/-- R174, R175: with a schedule loaded, DECBLK of a 16-byte block answers DecryptBlock, the rounds Nr-1..1 in decreasing order,
with the round keys as the schedule holds them; and it changes nothing else. -/
def Obligations.DecryptCommandRunsTheRounds : Prop :=
  ∀ s : State, s.fault = 0 → s.ksValid = true → s.a.length = 16 →
    let first := invSubBytes (invShiftRows (addRoundKey (toState s.a) (roundKey s (rounds s.keyLen))))
    let middle := (List.range' 1 (rounds s.keyLen - 1)).reverse.foldl
      (fun S k => invSubBytes (invShiftRows (invMixColumns (addRoundKey S (roundKey s k))))) first
    Succeeds .decblk s (fromState (addRoundKey middle (roundKey s 0)))

/-- R172, R175, R211, R214: ENCBLK and DECBLK without a schedule fault with NO_KEY_SCHEDULE whatever the block is, and with one
fault with INVALID_BLOCK_LENGTH unless the block has 16 bytes. -/
def Obligations.BlockCommandFaults : Prop :=
  ∀ s : State, s.fault = 0 →
    (s.ksValid = false → FaultsWith .encblk s 2 ∧ FaultsWith .decblk s 2) ∧
    (s.ksValid = true → s.a.length ≠ 16 → FaultsWith .encblk s 4 ∧ FaultsWith .decblk s 4)

/-- R176: for any loaded schedule and any 16-byte `x`, DECBLK of what ENCBLK answers gives `x` back, and the converse; so
"EncryptBlock is a bijection on 16-byte strings for each schedule". -/
def Obligations.DecryptionInvertsEncryption : Prop :=
  ∀ s : State, s.fault = 0 → s.ksValid = true →
    (∀ x : Bytes, x.length = 16 →
      (∃ y, Succeeds .encblk { s with a := x } y ∧ y.length = 16 ∧ Succeeds .decblk { s with a := y } x) ∧
      (∃ y, Succeeds .decblk { s with a := x } y ∧ y.length = 16 ∧ Succeeds .encblk { s with a := y } x)) ∧
    (∀ x y r : Bytes, x.length = 16 → y.length = 16 →
      Succeeds .encblk { s with a := x } r → Succeeds .encblk { s with a := y } r → x = y) ∧
    ∀ r : Bytes, r.length = 16 → ∃ x : Bytes, x.length = 16 ∧ Succeeds .encblk { s with a := x } r

/-! ### Counter mode -/

/-- R44, R192, R195: CTRINC of a 16-byte counter succeeds with 16 bytes whose big-endian value is the counter's plus 1, modulo
2^128, with no overflow signal, and changes nothing else; on any other length it faults with INVALID_OPERAND_LENGTH. -/
def Obligations.CounterIncrementIsBigEndianModulo : Prop :=
  ∀ s : State, s.fault = 0 →
    (s.a.length = 16 →
      ∃ r : Bytes, Succeeds .ctrinc s r ∧ r.length = 16 ∧ counterValue r = (counterValue s.a + 1) % 2 ^ 128) ∧
    (s.a.length ≠ 16 → FaultsWith .ctrinc s 6)

/-- R44: `value(c)` is the sum over the bytes of `c[i] * 256^(15-i)`, and two counters with the same value are the same. -/
def Obligations.CounterValueIsTheBigEndianSum : Prop :=
  (∀ c : Bytes, c.length = 16 →
    counterValue c = ((List.range 16).map fun i => (c.getD i 0).toNat * 256 ^ (15 - i)).sum) ∧
  ∀ c d : Bytes, c.length = 16 → d.length = 16 → counterValue c = counterValue d → c = d

/-- R191, R193, R194, R54: with a schedule loaded and a 16-byte IV, CTRENC and CTRDEC succeed on data of every length with a
result of that length, whose byte `m` is the data's byte XOR byte `m mod 16` of EncryptBlock of the counter
`(value(iv) + m/16) mod 2^128`; and they change nothing else. -/
def Obligations.CounterModeUsesConsecutiveCounters : Prop :=
  ∀ s : State, s.fault = 0 → s.ksValid = true → s.b.length = 16 →
    ∃ r : Bytes, Succeeds .ctrenc s r ∧ Succeeds .ctrdec s r ∧ r.length = s.a.length ∧
      ∀ (m : Nat) (ctr : Bytes), m < s.a.length → ctr.length = 16 →
        counterValue ctr = (counterValue s.b + m / 16) % 2 ^ 128 →
        r.getD m 0 = s.a.getD m 0 ^^^ (encryptBlock s ctr).getD (m % 16) 0

/-- R196, R197: "`decrypt_ctr(encrypt_ctr(p, iv), iv) == p`" for data of every length, the operation is an involution and keeps
the length; and the engine accepts a second CTRENC with the same IV, the XOR of the two results being the XOR of the two data
strings on their common prefix. -/
def Obligations.CounterModeRoundTripAndReuse : Prop :=
  ∀ s : State, s.fault = 0 → s.ksValid = true → s.b.length = 16 →
    ∃ r t, exec .ctrenc s = .next t ∧ t.responses = s.responses ++ [{ status := 0, r := r }] ∧
      r.length = s.a.length ∧ Succeeds .ctrdec { t with a := r } s.a ∧ Succeeds .ctrenc { t with a := r } s.a ∧
      ∀ p : Bytes, ∃ q, Succeeds .ctrenc { t with a := p } q ∧ xorBytes r q = xorBytes s.a p

/-- R193, R194, R214: CTRENC and CTRDEC without a schedule fault with NO_KEY_SCHEDULE whatever the operands are, and with one
fault with INVALID_IV_LENGTH unless the IV has 16 bytes, "whatever `len(A)` is". -/
def Obligations.CounterModeFaults : Prop :=
  ∀ s : State, s.fault = 0 →
    (s.ksValid = false → FaultsWith .ctrenc s 2 ∧ FaultsWith .ctrdec s 2) ∧
    (s.ksValid = true → s.b.length ≠ 16 → FaultsWith .ctrenc s 5 ∧ FaultsWith .ctrdec s 5)

/-- R198: for every bound MAX_CTR_LEN, longer data is refused, from every state; data within the bound has the meaning it
has under no bound, which is the bound `exec` takes (log entry 3). -/
def Obligations.LongCounterDataIsRefused : Prop :=
  ∀ (m : Nat) (s : State),
    (m < s.a.length → ctrCommand (some m) s = .refused .ctrDataTooLong) ∧
    (s.a.length ≤ m → ctrCommand (some m) s = exec .ctrenc s ∧ ctrCommand (some m) s = exec .ctrdec s)

/-! ### The whole machine -/

/-- R22, R24, R63, R211: every step keeps the invariant of the reachable states, from every state that has it. -/
def Obligations.EveryStepKeepsTheInvariant : Prop :=
  ∀ s t : State, s.Inv → step s = .next t → t.Inv

/-- R30, R240: the invariant holds right after reset. -/
def Obligations.InvariantHoldsAtReset : Prop := State.reset.Inv

/-- R24, R30, R42, R159, U5, U6: the unspecified entries of `KS.W` are never read.  Whatever `KS.W` holds while `KS_VALID = 0`,
and whatever its entries from `4*(Nr+1)` on hold while `KS_VALID = 1`, every command word, legal or not, gives the same answer
and the same registers. -/
def Obligations.UnspecifiedScheduleEntriesAreNeverRead : Prop :=
  ∀ (s : State) (other : Vector Word 60),
    (s.ksValid = true → ∀ i, i < scheduleWords s.keyLen → other[i]? = s.ksw[i]?) →
    SameAnswer (runPresented s) (runPresented { s with ksw := other })

/-- R242: with no schedule loaded, RKREAD, ENCBLK, DECBLK, CTRENC and CTRDEC fault with NO_KEY_SCHEDULE, and CTRINC and the
component commands (XTIME through ADDROUNDKEY) answer as they do with `KS_VALID = 1`.  KEYEXPAND and KSINFO are not in the
second clause: KEYEXPAND sets `KS_VALID`, and KSINFO reads it (R159, R161). -/
def Obligations.KeylessCommandsNeedNoSchedule : Prop :=
  ∀ (i : Instr) (s : State), s.fault = 0 → s.ksValid = false →
    (needsSchedule i = true → FaultsWith i s 2) ∧
    (needsSchedule i = false → i ≠ .keyexpand → i ≠ .ksinfo →
      ∃ t, exec i s = .next t ∧ exec i { s with ksValid := true } = .next { t with ksValid := true })

/-- R246: a run "ends after the response to its last transaction".  For every list of inputs and every last transaction `t`,
whatever inputs without a response (a RESET, between commands or during one) follow `t`, the run ends in the state in which
every input up to `t` has been taken, with one response for each transaction, the last one's `STATUS` being `FAULT`. -/
def Obligations.RunEndsAfterItsLastResponse : Prop :=
  ∀ (inputs tail : List HostInput) (t : Transaction), (∀ x ∈ tail, getsResponse x = false) →
    ∃ (u : State) (p : Response),
      runInputs (inputs ++ .command t :: tail) = .next u ∧
      Sys2Proof.core.run (inputs.length + 1) (State.load (inputs ++ [.command t])) = .next u ∧
      u.pending = [] ∧ u.responses.length = inputs.countP getsResponse + 1 ∧
      u.responses.getLast? = some p ∧ p.status = u.fault ∧ (u.fault ≠ 0 → u.RunFaulted)
end

