-- ==== Sys2Proof/Laws/State.lean ====
section
/-! SUPPORT. One lemma per field of the state and per operation that updates it, each true by unfolding, so that no proof
unfolds a record update. -/

namespace Sys2Proof.Machine

/-! ### respond -/

@[simp] theorem respond_ksValid (status : Byte) (r : Bytes) (s : State) :
    (respond status r s).ksValid = s.ksValid := rfl

@[simp] theorem respond_keyLen (status : Byte) (r : Bytes) (s : State) :
    (respond status r s).keyLen = s.keyLen := rfl

@[simp] theorem respond_ksw (status : Byte) (r : Bytes) (s : State) :
    (respond status r s).ksw = s.ksw := rfl

@[simp] theorem respond_fault (status : Byte) (r : Bytes) (s : State) :
    (respond status r s).fault = s.fault := rfl

@[simp] theorem respond_cmd (status : Byte) (r : Bytes) (s : State) :
    (respond status r s).cmd = s.cmd := rfl

@[simp] theorem respond_a (status : Byte) (r : Bytes) (s : State) :
    (respond status r s).a = s.a := rfl

@[simp] theorem respond_b (status : Byte) (r : Bytes) (s : State) :
    (respond status r s).b = s.b := rfl

@[simp] theorem respond_idx (status : Byte) (r : Bytes) (s : State) :
    (respond status r s).idx = s.idx := rfl

@[simp] theorem respond_responses (status : Byte) (r : Bytes) (s : State) :
    (respond status r s).responses = s.responses ++ [{ status := status, r := r }] := rfl

@[simp] theorem respond_pending (status : Byte) (r : Bytes) (s : State) :
    (respond status r s).pending = s.pending := rfl

@[simp] theorem respond_draws (status : Byte) (r : Bytes) (s : State) :
    (respond status r s).draws = s.draws := rfl

/-! ### succeed -/

@[simp] theorem succeed_ksValid (r : Bytes) (s : State) :
    (succeed r s).ksValid = s.ksValid := rfl

@[simp] theorem succeed_keyLen (r : Bytes) (s : State) :
    (succeed r s).keyLen = s.keyLen := rfl

@[simp] theorem succeed_ksw (r : Bytes) (s : State) :
    (succeed r s).ksw = s.ksw := rfl

@[simp] theorem succeed_fault (r : Bytes) (s : State) :
    (succeed r s).fault = s.fault := rfl

@[simp] theorem succeed_cmd (r : Bytes) (s : State) :
    (succeed r s).cmd = s.cmd := rfl

@[simp] theorem succeed_a (r : Bytes) (s : State) :
    (succeed r s).a = s.a := rfl

@[simp] theorem succeed_b (r : Bytes) (s : State) :
    (succeed r s).b = s.b := rfl

@[simp] theorem succeed_idx (r : Bytes) (s : State) :
    (succeed r s).idx = s.idx := rfl

@[simp] theorem succeed_responses (r : Bytes) (s : State) :
    (succeed r s).responses = s.responses ++ [{ status := 0x00, r := r }] := rfl

@[simp] theorem succeed_pending (r : Bytes) (s : State) :
    (succeed r s).pending = s.pending := rfl

@[simp] theorem succeed_draws (r : Bytes) (s : State) :
    (succeed r s).draws = s.draws := rfl

/-! ### takeFault -/

@[simp] theorem takeFault_ksValid (c : Cause) (s : State) :
    (takeFault c s).ksValid = s.ksValid := rfl

@[simp] theorem takeFault_keyLen (c : Cause) (s : State) :
    (takeFault c s).keyLen = s.keyLen := rfl

@[simp] theorem takeFault_ksw (c : Cause) (s : State) :
    (takeFault c s).ksw = s.ksw := rfl

@[simp] theorem takeFault_fault (c : Cause) (s : State) :
    (takeFault c s).fault = causeCode c := rfl

@[simp] theorem takeFault_cmd (c : Cause) (s : State) :
    (takeFault c s).cmd = s.cmd := rfl

@[simp] theorem takeFault_a (c : Cause) (s : State) :
    (takeFault c s).a = s.a := rfl

@[simp] theorem takeFault_b (c : Cause) (s : State) :
    (takeFault c s).b = s.b := rfl

@[simp] theorem takeFault_idx (c : Cause) (s : State) :
    (takeFault c s).idx = s.idx := rfl

@[simp] theorem takeFault_responses (c : Cause) (s : State) :
    (takeFault c s).responses = s.responses ++ [{ status := causeCode c, r := [] }] := rfl

@[simp] theorem takeFault_pending (c : Cause) (s : State) :
    (takeFault c s).pending = s.pending := rfl

@[simp] theorem takeFault_draws (c : Cause) (s : State) :
    (takeFault c s).draws = s.draws := rfl

/-! ### answerHeldFault -/

@[simp] theorem answerHeldFault_ksValid (s : State) :
    (answerHeldFault s).ksValid = s.ksValid := rfl

@[simp] theorem answerHeldFault_keyLen (s : State) :
    (answerHeldFault s).keyLen = s.keyLen := rfl

@[simp] theorem answerHeldFault_ksw (s : State) :
    (answerHeldFault s).ksw = s.ksw := rfl

@[simp] theorem answerHeldFault_fault (s : State) :
    (answerHeldFault s).fault = s.fault := rfl

@[simp] theorem answerHeldFault_cmd (s : State) :
    (answerHeldFault s).cmd = s.cmd := rfl

@[simp] theorem answerHeldFault_a (s : State) :
    (answerHeldFault s).a = s.a := rfl

@[simp] theorem answerHeldFault_b (s : State) :
    (answerHeldFault s).b = s.b := rfl

@[simp] theorem answerHeldFault_idx (s : State) :
    (answerHeldFault s).idx = s.idx := rfl

@[simp] theorem answerHeldFault_responses (s : State) :
    (answerHeldFault s).responses = s.responses ++ [{ status := s.fault, r := [] }] := rfl

@[simp] theorem answerHeldFault_pending (s : State) :
    (answerHeldFault s).pending = s.pending := rfl

@[simp] theorem answerHeldFault_draws (s : State) :
    (answerHeldFault s).draws = s.draws := rfl

/-! ### assertReset -/

@[simp] theorem assertReset_ksValid (s : State) :
    (assertReset s).ksValid = false := rfl

@[simp] theorem assertReset_keyLen (s : State) :
    (assertReset s).keyLen = 0 := rfl

@[simp] theorem assertReset_ksw (s : State) :
    (assertReset s).ksw = unspecifiedSchedule s.draws := rfl

@[simp] theorem assertReset_fault (s : State) :
    (assertReset s).fault = 0 := rfl

@[simp] theorem assertReset_cmd (s : State) :
    (assertReset s).cmd = s.cmd := rfl

@[simp] theorem assertReset_a (s : State) :
    (assertReset s).a = s.a := rfl

@[simp] theorem assertReset_b (s : State) :
    (assertReset s).b = s.b := rfl

@[simp] theorem assertReset_idx (s : State) :
    (assertReset s).idx = s.idx := rfl

@[simp] theorem assertReset_responses (s : State) :
    (assertReset s).responses = s.responses := rfl

@[simp] theorem assertReset_pending (s : State) :
    (assertReset s).pending = s.pending := rfl

@[simp] theorem assertReset_draws (s : State) :
    (assertReset s).draws = s.draws + 1 := rfl

/-! ### present -/

@[simp] theorem present_ksValid (t : Transaction) (rest : List HostInput) (s : State) :
    (present t rest s).ksValid = s.ksValid := rfl

@[simp] theorem present_keyLen (t : Transaction) (rest : List HostInput) (s : State) :
    (present t rest s).keyLen = s.keyLen := rfl

@[simp] theorem present_ksw (t : Transaction) (rest : List HostInput) (s : State) :
    (present t rest s).ksw = s.ksw := rfl

@[simp] theorem present_fault (t : Transaction) (rest : List HostInput) (s : State) :
    (present t rest s).fault = s.fault := rfl

@[simp] theorem present_cmd (t : Transaction) (rest : List HostInput) (s : State) :
    (present t rest s).cmd = t.cmd := rfl

@[simp] theorem present_a (t : Transaction) (rest : List HostInput) (s : State) :
    (present t rest s).a = t.a := rfl

@[simp] theorem present_b (t : Transaction) (rest : List HostInput) (s : State) :
    (present t rest s).b = t.b := rfl

@[simp] theorem present_idx (t : Transaction) (rest : List HostInput) (s : State) :
    (present t rest s).idx = t.idx := rfl

@[simp] theorem present_responses (t : Transaction) (rest : List HostInput) (s : State) :
    (present t rest s).responses = s.responses := rfl

@[simp] theorem present_pending (t : Transaction) (rest : List HostInput) (s : State) :
    (present t rest s).pending = rest := rfl

@[simp] theorem present_draws (t : Transaction) (rest : List HostInput) (s : State) :
    (present t rest s).draws = s.draws := rfl

/-! ### takeReset -/

@[simp] theorem takeReset_ksValid (rest : List HostInput) (s : State) :
    (takeReset rest s).ksValid = false := rfl

@[simp] theorem takeReset_keyLen (rest : List HostInput) (s : State) :
    (takeReset rest s).keyLen = 0 := rfl

@[simp] theorem takeReset_ksw (rest : List HostInput) (s : State) :
    (takeReset rest s).ksw = unspecifiedSchedule s.draws := rfl

@[simp] theorem takeReset_fault (rest : List HostInput) (s : State) :
    (takeReset rest s).fault = 0 := rfl

@[simp] theorem takeReset_cmd (rest : List HostInput) (s : State) :
    (takeReset rest s).cmd = s.cmd := rfl

@[simp] theorem takeReset_a (rest : List HostInput) (s : State) :
    (takeReset rest s).a = s.a := rfl

@[simp] theorem takeReset_b (rest : List HostInput) (s : State) :
    (takeReset rest s).b = s.b := rfl

@[simp] theorem takeReset_idx (rest : List HostInput) (s : State) :
    (takeReset rest s).idx = s.idx := rfl

@[simp] theorem takeReset_responses (rest : List HostInput) (s : State) :
    (takeReset rest s).responses = s.responses := rfl

@[simp] theorem takeReset_pending (rest : List HostInput) (s : State) :
    (takeReset rest s).pending = rest := rfl

@[simp] theorem takeReset_draws (rest : List HostInput) (s : State) :
    (takeReset rest s).draws = s.draws + 1 := rfl

/-! ### presentNext -/

@[simp] theorem presentNext_ksValid (t : Transaction) (s : State) :
    (presentNext t s).ksValid = s.ksValid := rfl

@[simp] theorem presentNext_keyLen (t : Transaction) (s : State) :
    (presentNext t s).keyLen = s.keyLen := rfl

@[simp] theorem presentNext_ksw (t : Transaction) (s : State) :
    (presentNext t s).ksw = s.ksw := rfl

@[simp] theorem presentNext_fault (t : Transaction) (s : State) :
    (presentNext t s).fault = s.fault := rfl

@[simp] theorem presentNext_cmd (t : Transaction) (s : State) :
    (presentNext t s).cmd = s.cmd := rfl

@[simp] theorem presentNext_a (t : Transaction) (s : State) :
    (presentNext t s).a = s.a := rfl

@[simp] theorem presentNext_b (t : Transaction) (s : State) :
    (presentNext t s).b = s.b := rfl

@[simp] theorem presentNext_idx (t : Transaction) (s : State) :
    (presentNext t s).idx = s.idx := rfl

@[simp] theorem presentNext_responses (t : Transaction) (s : State) :
    (presentNext t s).responses = s.responses := rfl

@[simp] theorem presentNext_pending (t : Transaction) (s : State) :
    (presentNext t s).pending = .command t :: s.pending := rfl

@[simp] theorem presentNext_draws (t : Transaction) (s : State) :
    (presentNext t s).draws = s.draws := rfl

end Sys2Proof.Machine
end

