-- ==== Sys2Proof/Laws/Values.lean ====
section
/-! SUPPORT. Laws of bytes, words and matrices, and of reading and writing them as byte strings (R10, R11, R43, R44). -/

namespace Sys2Proof

/-- Two matrices are equal when they agree on every `S[c][r]`. -/
theorem Matrix.ext_get {S T : Matrix} (h : ∀ c r, S.get c r = T.get c r) : S = T := by
  obtain ⟨⟨_, _, _, _⟩, ⟨_, _, _, _⟩, ⟨_, _, _, _⟩, ⟨_, _, _, _⟩⟩ := S
  obtain ⟨⟨_, _, _, _⟩, ⟨_, _, _, _⟩, ⟨_, _, _, _⟩, ⟨_, _, _, _⟩⟩ := T
  have h00 := h 0 0; have h01 := h 0 1; have h02 := h 0 2; have h03 := h 0 3
  have h10 := h 1 0; have h11 := h 1 1; have h12 := h 1 2; have h13 := h 1 3
  have h20 := h 2 0; have h21 := h 2 1; have h22 := h 2 2; have h23 := h 2 3
  have h30 := h 3 0; have h31 := h 3 1; have h32 := h 3 2; have h33 := h 3 3
  simp only [Matrix.get, Matrix.col, Word.get] at *
  subst_vars; rfl

/-- Two words are equal when they agree on every `w[r]`. -/
theorem Word.ext_get {v w : Word} (h : ∀ r, v.get r = w.get r) : v = w := by
  obtain ⟨_, _, _, _⟩ := v
  obtain ⟨_, _, _, _⟩ := w
  have h0 := h 0; have h1 := h 1; have h2 := h 2; have h3 := h 3
  simp only [Word.get] at *
  subst_vars; rfl

@[simp] theorem Word.get_ofFn (f : Fin 4 → Byte) (r : Fin 4) : (Word.ofFn f).get r = f r := by
  fin_cases r <;> rfl

@[simp] theorem Matrix.col_ofCols (f : Fin 4 → Word) (c : Fin 4) : (Matrix.ofCols f).col c = f c := by
  fin_cases c <;> rfl

@[simp] theorem Matrix.get_ofCols (f : Fin 4 → Word) (c r : Fin 4) : (Matrix.ofCols f).get c r = (f c).get r := by
  simp [Matrix.get]

@[simp] theorem Matrix.get_ofFn (f : Fin 4 → Fin 4 → Byte) (c r : Fin 4) : (Matrix.ofFn f).get c r = f c r := by
  simp [Matrix.ofFn]

@[simp] theorem Matrix.col_ofFn (f : Fin 4 → Fin 4 → Byte) (c : Fin 4) : (Matrix.ofFn f).col c = Word.ofFn (f c) := by
  simp [Matrix.ofFn]

@[simp] theorem Matrix.ofCols_col (S : Matrix) : Matrix.ofCols S.col = S := rfl

@[simp] theorem Matrix.ofFn_get (S : Matrix) : Matrix.ofFn S.get = S := rfl

@[simp] theorem Word.get_xor (v w : Word) (r : Fin 4) : (v.xor w).get r = v.get r ^^^ w.get r := by
  fin_cases r <;> rfl

@[simp] theorem Word.length_toBytes (w : Word) : w.toBytes.length = 4 := rfl

/-- XOR of bytes is left-commutative: with commutativity and associativity it brings equal terms together. -/
theorem Byte.xor_left_comm (a b c : Byte) : a ^^^ (b ^^^ c) = b ^^^ (a ^^^ c) := by ac_rfl

/-- Equal terms of an XOR cancel. -/
theorem Byte.xor_cancel_left (a b : Byte) : a ^^^ (a ^^^ b) = b := by rw [← BitVec.xor_assoc]; simp

namespace Machine

/-- A string of 16 bytes, byte by byte. -/
theorem eq_of_length_16 {b : Bytes} (h : b.length = 16) :
    ∃ x0 x1 x2 x3 x4 x5 x6 x7 x8 x9 x10 x11 x12 x13 x14 x15 : Byte,
      b = [x0, x1, x2, x3, x4, x5, x6, x7, x8, x9, x10, x11, x12, x13, x14, x15] := by
  match b, h with
  | [x0, x1, x2, x3, x4, x5, x6, x7, x8, x9, x10, x11, x12, x13, x14, x15], _ =>
    exact ⟨x0, x1, x2, x3, x4, x5, x6, x7, x8, x9, x10, x11, x12, x13, x14, x15, rfl⟩

@[simp] theorem length_fromState (S : Matrix) : (fromState S).length = 16 := rfl

/-- A matrix serialised and read back is itself (R10, R43). -/
@[simp] theorem toState_fromState (S : Matrix) : toState (fromState S) = S := rfl

/-- A block read as a matrix and serialised is itself (R10, R43). -/
theorem fromState_toState {b : Bytes} (h : b.length = 16) : fromState (toState b) = b := by
  obtain ⟨_, _, _, _, _, _, _, _, _, _, _, _, _, _, _, _, rfl⟩ := eq_of_length_16 h
  rfl

/-- Byte `4c+r` of a serialised matrix is `S[c][r]` (R10). -/
theorem byteAt_fromState (S : Matrix) (c r : Fin 4) : byteAt (fromState S) (4 * c.val + r.val) = S.get c r := by
  fin_cases c <;> fin_cases r <;> rfl

@[simp] theorem length_xorBytes (s t : Bytes) : (xorBytes s t).length = min s.length t.length := by
  simp [xorBytes]

/-- Byte `m` of the XOR of two strings, on their common prefix (R191). -/
theorem byteAt_xorBytes {s t : Bytes} {m : Nat} (hs : m < s.length) (ht : m < t.length) :
    byteAt (xorBytes s t) m = byteAt s m ^^^ byteAt t m := by
  simp [byteAt, xorBytes, hs, ht]

@[simp] theorem counterValue_nil : counterValue [] = 0 := rfl

@[simp] theorem counterValue_cons (x : Byte) (c : Bytes) :
    counterValue (x :: c) = x.toNat * 256 ^ c.length + counterValue c := rfl

/-- The value of a counter fits its width (R44). -/
theorem counterValue_lt (c : Bytes) : counterValue c < 256 ^ c.length := by
  induction c with
  | nil => simp
  | cons x rest ih =>
    have hx : x.toNat < 256 := x.isLt
    simp only [counterValue_cons, List.length_cons, Nat.pow_succ]
    nlinarith

end Machine

end Sys2Proof
end

