-- ==== Sys2Proof/Laws/Ops.lean ====
section
/-! SUPPORT. What each shared operation can do, once: the held-fault check, the round counts, the schedule reads, and the
templates of the commands.  The provers cite these instead of unfolding the operations. -/

namespace Sys2Proof.Machine

/-- No cause has the code 0 (R211). -/
@[simp] theorem causeCode_ne_none (c : Cause) : causeCode c ≠ codeNone := by cases c <;> decide

/-- Every cause code is one of 1..7 (R211, U13). -/
theorem causeCode_le (c : Cause) : (causeCode c).toNat ≤ 7 := by cases c <;> decide

/-- With no fault held, the check lets the command's own state through (R212). -/
theorem unlessFaultHeld_clear {s t : State} (h : s.fault = 0) : unlessFaultHeld s t = .next t := by
  simp [unlessFaultHeld, codeNone, h]

/-- With a fault held, the answer is that fault, whatever the command is (R212). -/
theorem unlessFaultHeld_held {s t : State} (h : s.fault ≠ 0) : unlessFaultHeld s t = .next (answerHeldFault s) := by
  exact congrArg Host.Outcome.next (if_neg h)

/-- The check answers one of two states. -/
theorem unlessFaultHeld_cases {s t u : State} (h : unlessFaultHeld s t = .next u) :
    (s.fault = 0 ∧ u = t) ∨ (s.fault ≠ 0 ∧ u = answerHeldFault s) := by
  by_cases hf : s.fault = 0
  · rw [unlessFaultHeld_clear hf] at h; cases h; exact .inl ⟨hf, rfl⟩
  · rw [unlessFaultHeld_held hf] at h; cases h; exact .inr ⟨hf, rfl⟩

@[simp] theorem rounds_16 : rounds 16#8 = 10 := rfl
@[simp] theorem rounds_24 : rounds 24#8 = 12 := rfl
@[simp] theorem rounds_32 : rounds 32#8 = 14 := rfl

/-- No round count is above 14, whatever `KEY_LEN` holds (R7, R42). -/
theorem rounds_le (keyLen : Byte) : rounds keyLen ≤ 14 := by
  unfold rounds
  have h := (Config.undefinedRounds keyLen).isLt
  split_ifs <;> omega

/-- Every expanded key fits the schedule file (R42). -/
theorem scheduleWords_le (keyLen : Byte) : scheduleWords keyLen ≤ 60 := by
  have := rounds_le keyLen
  unfold scheduleWords; omega

/-- A read of the schedule file inside it (R24). -/
theorem ksWord_eq (s : State) {i : Nat} (h : i < 60) : ksWord s i = s.ksw[i] := by
  simp [ksWord, h]

/-- `RK(k)[c][r] = KS.W[4*k + c][r]` (R24). -/
@[simp] theorem roundKey_get (s : State) (k : Nat) (c r : Fin 4) :
    (roundKey s k).get c r = (ksWord s (4 * k + c.val)).get r := by
  simp [roundKey]

/-- The schedule reads depend on the schedule file alone. -/
theorem ksWord_congr {s t : State} (h : s.ksw = t.ksw) : ksWord s = ksWord t := by
  funext i; simp [ksWord, h]

/-- The round keys depend on the schedule file alone. -/
theorem roundKey_congr {s t : State} (h : s.ksw = t.ksw) : roundKey s = roundKey t := by
  funext k; simp [roundKey, ksWord_congr h]

/-- What an unwritten word of the schedule file reads as, in any free draw. -/
theorem ksWord_assertReset (s : State) {i : Nat} (h : i < 60) :
    ksWord (assertReset s) i = Config.freeWord s.draws i := by
  simp [ksWord_eq _ h, unspecifiedSchedule]

end Sys2Proof.Machine
end

