-- ==== Sys2Proof/Laws/Commands.lean ====
section
/-! SUPPORT. The templates of the commands, one lemma for each way a template can end, and the length laws of the key
schedule and of counter mode that the statements about them rest on. -/

namespace Sys2Proof.Machine

variable {s : State}

/-! ### One-byte and 16-byte component commands -/

theorem byteCommand_succeeds {f : Byte → Byte} {x : Byte} (hf : s.fault = 0) (ha : s.a = [x]) :
    byteCommand f s = .next (succeed [f x] s) := by
  simp [byteCommand, unlessFaultHeld_clear hf, ha, byteAt]

theorem byteCommand_faults {f : Byte → Byte} (hf : s.fault = 0) (ha : s.a.length ≠ 1) :
    byteCommand f s = .next (takeFault .invalidOperandLength s) := by
  simp [byteCommand, unlessFaultHeld_clear hf, ha]

theorem matrixCommand_succeeds {f : Matrix → Matrix} (hf : s.fault = 0) (ha : s.a.length = 16) :
    matrixCommand f s = .next (succeed (fromState (f (toState s.a))) s) := by
  simp [matrixCommand, unlessFaultHeld_clear hf, ha]

theorem matrixCommand_faults {f : Matrix → Matrix} (hf : s.fault = 0) (ha : s.a.length ≠ 16) :
    matrixCommand f s = .next (takeFault .invalidOperandLength s) := by
  simp [matrixCommand, unlessFaultHeld_clear hf, ha]

/-! ### Block commands -/

theorem blockCommand_succeeds {f : State → Bytes → Bytes} (hf : s.fault = 0) (hk : s.ksValid = true)
    (ha : s.a.length = 16) : blockCommand f s = .next (succeed (f s s.a) s) := by
  simp [blockCommand, unlessFaultHeld_clear hf, hk, ha]

theorem blockCommand_noKey {f : State → Bytes → Bytes} (hf : s.fault = 0) (hk : s.ksValid = false) :
    blockCommand f s = .next (takeFault .noKeySchedule s) := by
  simp [blockCommand, unlessFaultHeld_clear hf, hk]

theorem blockCommand_badLength {f : State → Bytes → Bytes} (hf : s.fault = 0) (hk : s.ksValid = true)
    (ha : s.a.length ≠ 16) : blockCommand f s = .next (takeFault .invalidBlockLength s) := by
  simp [blockCommand, unlessFaultHeld_clear hf, hk, ha]

/-! ### Counter-mode commands -/

@[simp] theorem withinBound_none (n : Nat) : withinBound none n = true := rfl

@[simp] theorem withinBound_some (m n : Nat) : withinBound (some m) n = decide (n ≤ m) := rfl

/-- Data within the bound: the command does what it does under no bound (R198). -/
theorem ctrCommand_within {bound : Option Nat} (h : withinBound bound s.a.length = true) :
    ctrCommand bound s = ctrCommand none s := by
  simp [ctrCommand, h]

theorem ctrCommand_refuses {bound : Option Nat} (h : withinBound bound s.a.length = false) :
    ctrCommand bound s = .refused .ctrDataTooLong := by
  simp [ctrCommand, h]

theorem ctrCommand_succeeds (hf : s.fault = 0) (hk : s.ksValid = true) (hb : s.b.length = 16) :
    ctrCommand none s = .next (succeed (ctrXor s s.a s.b) s) := by
  simp [ctrCommand, unlessFaultHeld_clear hf, hk, hb]

theorem ctrCommand_noKey (hf : s.fault = 0) (hk : s.ksValid = false) :
    ctrCommand none s = .next (takeFault .noKeySchedule s) := by
  simp [ctrCommand, unlessFaultHeld_clear hf, hk]

theorem ctrCommand_badIv (hf : s.fault = 0) (hk : s.ksValid = true) (hb : s.b.length ≠ 16) :
    ctrCommand none s = .next (takeFault .invalidIvLength s) := by
  simp [ctrCommand, unlessFaultHeld_clear hf, hk, hb]

@[simp] theorem length_incCarry (c : Bytes) : (incCarry c).length = c.length := by
  induction c with
  | nil => rfl
  | cons x rest ih => unfold incCarry; split <;> simp [ih]

@[simp] theorem length_inc128 (c : Bytes) : (inc128 c).length = c.length := by simp [inc128]

@[simp] theorem length_encryptBlock (x : Bytes) : (encryptBlock s x).length = 16 := rfl

@[simp] theorem length_decryptBlock (x : Bytes) : (decryptBlock s x).length = 16 := rfl

/-- Counter mode keeps the length of the data (R191, R196). -/
theorem length_ctrBlocks {enc : Bytes → Bytes} (henc : ∀ c, (enc c).length = 16) (n : Nat) (data ctr : Bytes)
    (h : data.length ≤ 16 * n) : (ctrBlocks enc n data ctr).length = data.length := by
  induction n generalizing data ctr with
  | zero => simp at h; simp [ctrBlocks, h]
  | succ n ih =>
    have := ih (data.drop 16) (inc128 ctr) (by simp; omega)
    simp only [ctrBlocks, List.length_append, length_xorBytes, henc, this, List.length_take, List.length_drop]
    omega

theorem le_blockCount (n : Nat) : n ≤ 16 * blockCount n := by unfold blockCount; omega

@[simp] theorem length_ctrXor (data iv : Bytes) : (ctrXor s data iv).length = data.length :=
  length_ctrBlocks (fun _ => rfl) _ _ _ (le_blockCount _)

/-! ### Key schedule -/

/-- Each turn of ExpandKey's loop adds one word (R152). -/
@[simp] theorem length_expandLoop (keyLen n rc : Nat) (w : List Word) :
    (expandLoop keyLen n rc w).length = w.length + n := by
  induction n generalizing rc w with
  | zero => rfl
  | succ n ih => simp only [expandLoop, ih, List.length_append, List.length_singleton]; omega

/-- The loop never changes a word it has already derived (R152). -/
theorem expandLoop_prefix (keyLen n rc : Nat) (w : List Word) : w <+: expandLoop keyLen n rc w := by
  induction n generalizing rc w with
  | zero => exact List.prefix_rfl
  | succ n ih => exact (List.prefix_append _ _).trans (ih _ _)

/-- The three legal key lengths as `KEY_LEN` (R22). -/
theorem lengthByte_toNat {key : Bytes} (h : key.length = 16 ∨ key.length = 24 ∨ key.length = 32) :
    (lengthByte key).toNat = key.length := by
  simp only [lengthByte, BitVec.toNat_ofNat]; omega

/-- The number of words a legal key expands to (R152). -/
theorem expandedWords_eq {key : Bytes} (h : key.length = 16 ∨ key.length = 24 ∨ key.length = 32) :
    expandedWords key = 4 * (key.length / 4 + 7) := by
  rcases h with h | h | h <;> simp [expandedWords, lengthByte, scheduleWords, h]

/-- The length of an expanded key: 44, 52 or 60 (R152, R157). -/
theorem length_expandKey {key : Bytes} (h : key.length = 16 ∨ key.length = 24 ∨ key.length = 32) :
    (expandKey key).length = expandedWords key := by
  simp only [expandKey, length_expandLoop, expandedWords_eq h, keyWords, List.length_map, List.length_range]
  omega

/-- A word of the schedule file after a load (R159). -/
theorem loadedSchedule_getElem (key : Bytes) (draw : Nat) {i : Nat} (h : i < 60) :
    (loadedSchedule key draw)[i] =
      if i < expandedWords key then (expandKey key).getD i default else Config.freeWord draw i := by
  simp [loadedSchedule]

/-- After a load the schedule of that key is loaded (R24, R159). -/
theorem loadKey_loaded (key : Bytes) (s : State) :
    (loadKey key s).ksValid = true ∧ (loadKey key s).keyLen = lengthByte key ∧
      ∀ i, i < expandedWords key → ksWord (loadKey key s) i = (expandKey key).getD i default := by
  by_cases h : scheduleLoaded key s = true
  · simp only [loadKey, h, if_true]
    simp only [scheduleLoaded, Bool.and_eq_true, beq_iff_eq, List.all_eq_true, List.mem_range] at h
    exact ⟨h.1.1, h.1.2, h.2⟩
  · simp only [loadKey, h]
    refine ⟨rfl, rfl, fun i hi => ?_⟩
    have h60 : i < 60 := lt_of_lt_of_le hi (scheduleWords_le _)
    rw [ksWord_eq _ h60]
    exact (loadedSchedule_getElem key s.draws h60).trans (by simp [hi])

/-- A load changes the schedule file, `KEY_LEN`, `KS_VALID` and the draw counter, and nothing else (R159). -/
theorem loadKey_frame (key : Bytes) (s : State) :
    loadKey key s =
      { s with
        ksValid := true, keyLen := lengthByte key, ksw := (loadKey key s).ksw, draws := (loadKey key s).draws } := by
  obtain ⟨hv, hl, _⟩ := loadKey_loaded key s
  by_cases h : scheduleLoaded key s = true
  · simp only [loadKey, h, if_true] at hv hl ⊢
    rw [← hv, ← hl]
  · simp [loadKey, h]

@[simp] theorem loadKey_fault (key : Bytes) (s : State) : (loadKey key s).fault = s.fault := by rw [loadKey_frame]

@[simp] theorem loadKey_cmd (key : Bytes) (s : State) : (loadKey key s).cmd = s.cmd := by rw [loadKey_frame]

@[simp] theorem loadKey_a (key : Bytes) (s : State) : (loadKey key s).a = s.a := by rw [loadKey_frame]

@[simp] theorem loadKey_b (key : Bytes) (s : State) : (loadKey key s).b = s.b := by rw [loadKey_frame]

@[simp] theorem loadKey_idx (key : Bytes) (s : State) : (loadKey key s).idx = s.idx := by rw [loadKey_frame]

@[simp] theorem loadKey_responses (key : Bytes) (s : State) : (loadKey key s).responses = s.responses := by rw [loadKey_frame]

@[simp] theorem loadKey_pending (key : Bytes) (s : State) : (loadKey key s).pending = s.pending := by rw [loadKey_frame]

@[simp] theorem loadKey_ksValid (key : Bytes) (s : State) : (loadKey key s).ksValid = true := (loadKey_loaded key s).1

@[simp] theorem loadKey_keyLen (key : Bytes) (s : State) : (loadKey key s).keyLen = lengthByte key := (loadKey_loaded key s).2.1

/-- A load of the schedule that is loaded changes nothing (R48). -/
theorem loadKey_of_loaded {key : Bytes} (h : scheduleLoaded key s = true) : loadKey key s = s := by
  simp [loadKey, h]

/-- `scheduleLoaded` says that the schedule of the key is loaded. -/
theorem scheduleLoaded_iff {key : Bytes} :
    scheduleLoaded key s = true ↔
      s.ksValid = true ∧ s.keyLen = lengthByte key ∧
        ∀ i, i < expandedWords key → ksWord s i = (expandKey key).getD i default := by
  simp [scheduleLoaded, and_assoc]

theorem execKeyexpand_succeeds (hf : s.fault = 0) (ha : s.a.length = 16 ∨ s.a.length = 24 ∨ s.a.length = 32) :
    execKeyexpand s = .next (succeed [] (loadKey s.a s)) := by
  have : ¬(s.a.length ≠ 16 ∧ s.a.length ≠ 24 ∧ s.a.length ≠ 32) := by omega
  simp only [execKeyexpand, unlessFaultHeld_clear hf, if_neg this]

theorem execKeyexpand_faults (hf : s.fault = 0) (h1 : s.a.length ≠ 16) (h2 : s.a.length ≠ 24) (h3 : s.a.length ≠ 32) :
    execKeyexpand s = .next (takeFault .invalidKeyLength s) := by
  simp [execKeyexpand, unlessFaultHeld_clear hf, h1, h2, h3]

end Sys2Proof.Machine
end

