-- ==== Sys2Proof/Laws/PerInstr.lean ====
section
/-! SUPPORT. Statements made for every command, by constructor: the command's row of the opcode map is the only one with its
instruction, with its opcode and the mask 0xFF, and its mnemonic names it (30_encoding.md R66, R70). -/

namespace Sys2Proof.Laws.OpcodeRow

/-- Exactly one row of the opcode map is this command's: its pattern is the command's opcode under the mask 0xFF; and the
command's mnemonic names it. -/
def Statement (i : Instr) : Prop :=
  (opcodeTable.filter fun row => row.instr == i) = [{ mask := 0xFF, pattern := encode i, instr := i }] ∧
    Machine.instrNamed (Machine.mnemonic i).toList = some i

theorem keyexpand : Statement .keyexpand := ⟨by decide, by decide⟩
theorem rkread : Statement .rkread := ⟨by decide, by decide⟩
theorem ksinfo : Statement .ksinfo := ⟨by decide, by decide⟩
theorem encblk : Statement .encblk := ⟨by decide, by decide⟩
theorem decblk : Statement .decblk := ⟨by decide, by decide⟩
theorem ctrenc : Statement .ctrenc := ⟨by decide, by decide⟩
theorem ctrdec : Statement .ctrdec := ⟨by decide, by decide⟩
theorem ctrinc : Statement .ctrinc := ⟨by decide, by decide⟩
theorem xtime : Statement .xtime := ⟨by decide, by decide⟩
theorem sbox : Statement .sbox := ⟨by decide, by decide⟩
theorem invsbox : Statement .invsbox := ⟨by decide, by decide⟩
theorem subbytes : Statement .subbytes := ⟨by decide, by decide⟩
theorem invsubbytes : Statement .invsubbytes := ⟨by decide, by decide⟩
theorem shiftrows : Statement .shiftrows := ⟨by decide, by decide⟩
theorem invshiftrows : Statement .invshiftrows := ⟨by decide, by decide⟩
theorem mixcolumns : Statement .mixcolumns := ⟨by decide, by decide⟩
theorem invmixcolumns : Statement .invmixcolumns := ⟨by decide, by decide⟩
theorem addroundkey : Statement .addroundkey := ⟨by decide, by decide⟩

end Sys2Proof.Laws.OpcodeRow
end

