-- ==== Sys2Proof/Laws/Step.lean ====
section
/-! SUPPORT. What a step does, once: by the host's next input, and by what the command word decodes to. -/

namespace Sys2Proof.Machine

variable {s : State}

theorem step_idle (h : s.pending = []) : step s = .next s := by
  simp [step, takeInput, h]

theorem step_command {t : Transaction} {rest : List HostInput} (h : s.pending = .command t :: rest) :
    step s = runPresented (present t rest s) := by
  simp [step, takeInput, h]

theorem step_reset {rest : List HostInput} (h : s.pending = .reset :: rest) : step s = .next (takeReset rest s) := by
  simp [step, takeInput, h]

theorem step_resetDuring {t : Transaction} {rest : List HostInput} (h : s.pending = .resetDuring t :: rest) :
    step s = .next (takeReset rest s) := by
  simp [step, takeInput, h]

theorem runPresented_ok {i : Instr} (h : decode s.cmd = .ok i) : runPresented s = exec i s := by
  simp [runPresented, h]

theorem runPresented_error {e : DecodeError} (h : decode s.cmd = .error e) : runPresented s = execIllegal s := by
  cases e; simp [runPresented, h]

/-- A command word is run as a command or taken as illegal. -/
theorem runPresented_cases (s : State) :
    (∃ i, decode s.cmd = .ok i ∧ runPresented s = exec i s) ∨ runPresented s = execIllegal s := by
  cases h : decode s.cmd with
  | ok i => exact .inl ⟨i, rfl, runPresented_ok h⟩
  | error e => exact .inr (runPresented_error h)

/-- Everything a step can do. -/
theorem step_cases {u : State} (h : step s = .next u) :
    (s.pending = [] ∧ u = s) ∨
    (∃ t rest, s.pending = .command t :: rest ∧ runPresented (present t rest s) = .next u) ∨
    (∃ t rest, (s.pending = .reset :: rest ∨ s.pending = .resetDuring t :: rest) ∧ u = takeReset rest s) := by
  match hp : s.pending with
  | [] => rw [step_idle hp] at h; cases h; exact .inl ⟨rfl, rfl⟩
  | .command t :: rest => rw [step_command hp] at h; exact .inr (.inl ⟨t, rest, rfl, h⟩)
  | .reset :: rest =>
    rw [step_reset hp] at h; cases h
    exact .inr (.inr ⟨bareTransaction 0, rest, .inl rfl, rfl⟩)
  | .resetDuring t :: rest =>
    rw [step_resetDuring hp] at h; cases h
    exact .inr (.inr ⟨t, rest, .inr rfl, rfl⟩)

end Sys2Proof.Machine
end

