-- ==== Sys2Proof/Laws/Safety.lean ====
section
/-! SUPPORT. From the operations to the terms the claims are stated in: success and faults of a command, and where a run
ends. -/

namespace Sys2Proof.Machine

variable {i : Instr} {s : State}

/-- A command that answers through `succeed` succeeds with that result (R63). -/
theorem succeeds_of {r r' : Bytes} (h : exec i s = .next (succeed r' s)) (hr : r' = r) : Succeeds i s r := by
  subst hr; exact h

/-- A command that takes a fault faults with its code (R213). -/
theorem faultsWith_of {c : Cause} (h : exec i s = .next (takeFault c s)) : FaultsWith i s (causeCode c) := h

/-! ### Runs (R246) -/

/-- A run of `k + 1` steps is its first step and then a run of `k`. -/
theorem run_step {u : State} (k : Nat) (h : step s = .next u) : Sys2Proof.core.run (k + 1) s = Sys2Proof.core.run k u := by
  have h' : Sys2Proof.core.step s = .next u := h
  simp only [Host.Core.run, h']

/-- A run that ends in a transaction has no input to leave out. -/
theorem runPart_command (inputs : List HostInput) (t : Transaction) :
    runPart (inputs ++ [.command t]) = inputs ++ [.command t] :=
  List.rdropWhile_concat_neg _ _ _ (by simp [getsResponse])

/-- Inputs without a response at the end of a list are no part of the run. -/
theorem runPart_append {tail : List HostInput} (inputs : List HostInput) (h : ∀ x ∈ tail, getsResponse x = false) :
    runPart (inputs ++ tail) = runPart inputs := by
  induction tail using List.reverseRecOn with
  | nil => rw [List.append_nil]
  | append_singleton rest x ih =>
    have hx := h x (by simp)
    rw [← List.append_assoc, runPart, List.rdropWhile_concat_pos _ _ _ (by simp [hx])]
    exact ih fun y hy => h y (by simp [hy])

/-- A RESET after the last transaction does not change where the run ends. -/
theorem runInputs_append {tail : List HostInput} (inputs : List HostInput) (h : ∀ x ∈ tail, getsResponse x = false) :
    runInputs (inputs ++ tail) = runInputs inputs := by
  rw [runInputs, runPart_append inputs h]; rfl

end Sys2Proof.Machine
end

