-- ==== Sys2Proof/Tests/Slice0.lean ====
section
/-! SUPPORT. The package's own tests: the well-formedness checks, the decoder on words written out bit by bit, one or two
commands each on the vectors of spec/95_test_vectors.md, the host's fixed names, and a witness for the hypotheses of every
statement that has any.  Every expected value is the spec's. -/

namespace Sys2Proof.Tests

open Sys2Proof.Machine

/-! ### Helpers -/

/-- The `n` bytes of a hex literal, first byte on the left (R9). -/
def bytesOf (n v : Nat) : Bytes :=
  match n with
  | 0 => []
  | k + 1 => bytesOf k (v / 256) ++ [BitVec.ofNat 8 v]

/-- The source's key K128. -/
def k128 : Bytes := bytesOf 16 0x000102030405060708090a0b0c0d0e0f

/-- The 24-byte key of V-L2-ENC-2. -/
def k192 : Bytes := bytesOf 24 0x000102030405060708090a0b0c0d0e0f1011121314151617

/-- The 32-byte key of V-L2-ENC-3. -/
def k256 : Bytes := bytesOf 32 0x000102030405060708090a0b0c0d0e0f101112131415161718191a1b1c1d1e1f

/-- The source's plaintext block. -/
def pt : Bytes := bytesOf 16 0x00112233445566778899aabbccddeeff

/-- The state `A` of V-L2-TR. -/
def ramp : Bytes := k128

/-- After reset, with operands on the ports. -/
def withPorts (a b : Bytes) (idx : Byte) : State := { State.reset with a := a, b := b, idx := idx }

/-- After a KEYEXPAND of `key`, with operands on the ports. -/
def keyed (key a b : Bytes) (idx : Byte) : State := loadKey key (withPorts a b idx)

/-- The response of one command. -/
def answer (o : Host.Outcome State Fault Refusal) : Option Response :=
  match o with
  | .next t => t.responses.getLast?
  | .fault _ => none
  | .refused _ => none

/-- `FAULT`, `KS_VALID` and `KEY_LEN` after one command. -/
def registers (o : Host.Outcome State Fault Refusal) : Option (Byte × Bool × Byte) :=
  match o with
  | .next t => some (t.fault, t.ksValid, t.keyLen)
  | .fault _ => none
  | .refused _ => none

/-- Word `i` of the schedule file after one command. -/
def scheduleWord (i : Nat) (o : Host.Outcome State Fault Refusal) : Option Word :=
  match o with
  | .next t => some (ksWord t i)
  | .fault _ => none
  | .refused _ => none

/-- A response with `STATUS = 0x00`. -/
def ok (r : Bytes) : Option Response := some { status := 0x00, r := r }

/-- A response with a failing `STATUS` and an empty `R`. -/
def failed (code : Byte) : Option Response := some { status := code, r := [] }

/-! ### Well-formedness (R64, R198): one ill-formed command for each check, refused -/

theorem test_wellFormed_refuses_long_ctrenc :
    Command.wellFormed (some 16) { instr := .ctrenc, a := bytesOf 17 0, b := bytesOf 16 0, idx := 0 } = false := by decide

theorem test_wellFormed_refuses_long_ctrdec :
    Command.wellFormed (some 16) { instr := .ctrdec, a := bytesOf 17 0, b := bytesOf 16 0, idx := 0 } = false := by decide

theorem test_wellFormed_accepts_at_the_bound :
    Command.wellFormed (some 16) { instr := .ctrenc, a := bytesOf 16 0, b := [], idx := 0 } = true := by decide

theorem test_ctrCommand_refuses_over_a_bound :
    ctrCommand (some 4) (keyed k128 (bytesOf 5 0) (bytesOf 16 0) 0) = .refused .ctrDataTooLong := by rfl

/-! ### Decoding (R66): every word bit by bit, from the column `op (binary)` -/

theorem test_decode_lifecycle_words :
    decode 0b00000001 = .ok .keyexpand ∧ decode 0b00000010 = .ok .rkread ∧ decode 0b00000011 = .ok .ksinfo ∧
      decode 0b00000100 = .ok .encblk ∧ decode 0b00000101 = .ok .decblk ∧ decode 0b00000110 = .ok .ctrenc ∧
      decode 0b00000111 = .ok .ctrdec ∧ decode 0b00001000 = .ok .ctrinc :=
  ⟨rfl, rfl, rfl, rfl, rfl, rfl, rfl, rfl⟩

theorem test_decode_component_words :
    decode 0b00010000 = .ok .xtime ∧ decode 0b00010001 = .ok .sbox ∧ decode 0b00010010 = .ok .invsbox ∧
      decode 0b00010011 = .ok .subbytes ∧ decode 0b00010100 = .ok .invsubbytes ∧ decode 0b00010101 = .ok .shiftrows ∧
      decode 0b00010110 = .ok .invshiftrows ∧ decode 0b00010111 = .ok .mixcolumns ∧
      decode 0b00011000 = .ok .invmixcolumns ∧ decode 0b00011001 = .ok .addroundkey :=
  ⟨rfl, rfl, rfl, rfl, rfl, rfl, rfl, rfl, rfl, rfl⟩

theorem test_decode_rejects_neighbours :
    decode 0x00 = .error (.illegalCommand 0x00) ∧ decode 0x09 = .error (.illegalCommand 0x09) ∧
      decode 0x0F = .error (.illegalCommand 0x0F) ∧ decode 0x1A = .error (.illegalCommand 0x1A) ∧
      decode 0xFF = .error (.illegalCommand 0xFF) :=
  ⟨rfl, rfl, rfl, rfl, rfl⟩

theorem test_opcode_rows_do_not_overlap :
    opcodeTable.Pairwise fun r q => r.pattern &&& (r.mask &&& q.mask) ≠ q.pattern &&& (r.mask &&& q.mask) := by decide

/-! ### The host's fixed names -/

theorem test_decodeTableWord_first_and_last :
    decodeTableWord 8 0x01 = some .keyexpand ∧ decodeTableWord 8 0x19 = some .addroundkey ∧ decodeTableWord 8 0x00 = none :=
  ⟨rfl, rfl, rfl⟩

/-- A bare XTIME has an empty `A`, so it faults with code 6 (R70, R107). -/
theorem test_withFetchWord_runs_the_word_after_reset : answer (step (State.reset.withFetchWord 8 0x10)) = failed 6 := by decide

/-- A bare KSINFO after reset answers `0000` (R161). -/
theorem test_withFetchWord_ksinfo : answer (step (State.reset.withFetchWord 8 0x03)) = ok [0x00, 0x00] := by decide

/-! ### The front end: illegal words, held faults, reset (V-L2-FLT, P4) -/

/-- F3: an illegal word after a KEYEXPAND faults with 1 and leaves the schedule loaded. -/
theorem test_illegal_word_faults :
    registers (runPresented { keyed k128 [] [] 0 with cmd := 0xFF }) = some (1, true, 16) := by decide +kernel

/-- F19: a held fault answers its code. -/
theorem test_held_fault_answers_the_code : answer (exec .ksinfo { State.reset with fault := 2 }) = failed 2 := by decide

/-- F20: a KEYEXPAND while a fault is held loads nothing. -/
theorem test_held_fault_loads_nothing :
    registers (exec .keyexpand { withPorts k128 [] 0 with fault := 4 }) = some (4, false, 0) := by decide

theorem test_reset_input_clears :
    registers (step { keyed k128 [] [] 0 with fault := 7, pending := [.reset] }) = some (0, false, 0) := by decide

/-- R246: a run ends after the response to its last transaction, here a bare XTIME that faults with 6; the RESETs after it are
no part of the run. -/
theorem test_run_ends_before_trailing_resets :
    registers (runInputs [.command (bareTransaction 0x10), .reset, .resetDuring (bareTransaction 0x03)]) =
      some (6, false, 0) := by decide +kernel

/-- R246: a RESET between transactions is part of the run. -/
theorem test_run_takes_resets_between :
    registers (runInputs [.command (bareTransaction 0x10), .reset, .command (bareTransaction 0x03)]) =
      some (0, false, 0) := by decide +kernel

/-! ### The tables -/

/-- R102, R104: the row and the column of an entry are not swapped. -/
theorem test_rom_rows_and_columns : sbox 0x53 = 0xED ∧ sbox 0x16 = 0x47 ∧ invSbox 0x10 = 0x7c ∧ invSbox 0xED = 0x53 := by decide

/-- R101, V-L2-GF. -/
theorem test_gmul_by_four : gmul 0x57 0x02 = 0xae ∧ gmul 0x57 0x04 = 0x47 := by decide

/-! ### The component commands (V-L2-GF, V-L2-TAB, V-L2-TR, V-L2-MC) -/

theorem test_xtime_reduces : answer (exec .xtime (withPorts [0x80] [] 0)) = ok [0x1b] := by decide

theorem test_xtime_two_bytes_fault : answer (exec .xtime (withPorts [0x01, 0x02] [] 0)) = failed 6 := by decide

theorem test_sbox_last_entry : answer (exec .sbox (withPorts [0xff] [] 0)) = ok [0x16] := by decide

theorem test_sbox_empty_operand_faults : answer (exec .sbox (withPorts [] [] 0)) = failed 6 := by decide

theorem test_invsbox_example : answer (exec .invsbox (withPorts [0xed] [] 0)) = ok [0x53] := by decide

theorem test_subbytes_example :
    answer (exec .subbytes (withPorts ramp [] 0)) = ok (bytesOf 16 0x637c777bf26b6fc53001672bfed7ab76) := by decide +kernel

theorem test_invsubbytes_example :
    answer (exec .invsubbytes (withPorts ramp [] 0)) = ok (bytesOf 16 0x52096ad53036a538bf40a39e81f3d7fb) := by decide +kernel

theorem test_shiftrows_example :
    answer (exec .shiftrows (withPorts ramp [] 0)) = ok (bytesOf 16 0x00050a0f04090e03080d02070c01060b) := by decide +kernel

theorem test_invshiftrows_example :
    answer (exec .invshiftrows (withPorts ramp [] 0)) = ok (bytesOf 16 0x000d0a0704010e0b0805020f0c090603) := by decide +kernel

theorem test_mixcolumns_example :
    answer (exec .mixcolumns (withPorts ramp [] 0)) = ok (bytesOf 16 0x02070005060304010a0f080d0e0b0c09) := by decide +kernel

/-- V-L2-MC, first row: the sequential reading of 90_conflicts.md C1 would end in 16. -/
theorem test_mixcolumns_reads_the_original_byte : mixColumn ⟨0xdb, 0x13, 0x53, 0x45⟩ = ⟨0x8e, 0x4d, 0xa1, 0xbc⟩ := by decide

theorem test_invmixcolumns_example :
    answer (exec .invmixcolumns (withPorts ramp [] 0)) = ok (bytesOf 16 0x0a0f080d0e0b0c090207000506030401) := by decide +kernel

theorem test_addroundkey_example :
    answer (exec .addroundkey (withPorts ramp (bytesOf 16 0xffeeddccbbaa99887766554433221100) 0)) =
      ok (bytesOf 16 0xffefdfcfbfaf9f8f7f6f5f4f3f2f1f0f) := by decide +kernel

/-- F16: a 15-byte `B`. -/
theorem test_addroundkey_short_key_faults : answer (exec .addroundkey (withPorts ramp (bytesOf 15 0) 0)) = failed 6 := by decide

/-! ### The key schedule (V-L2-KS, P1) -/

/-- V-L2-KS-3: the last word of a 256-bit schedule, after every extra SubWord. -/
theorem test_keyexpand_256_last_word :
    scheduleWord 59
      (exec .keyexpand
        (withPorts (bytesOf 32 0x603deb1015ca71be2b73aef0857d77811f352c073b6108d72d9810a30914dff4) [] 0)) =
      some ⟨0x70, 0x6c, 0x63, 0x1e⟩ := by decide +kernel

/-- F9: an empty key faults and leaves the schedule of before loaded. -/
theorem test_keyexpand_empty_key_keeps_schedule :
    registers (exec .keyexpand (keyed k128 [] [] 0)) = some (3, true, 16) := by decide +kernel

/-- P1, row 10: round key 12 of the 24-byte key. -/
theorem test_rkread_192_last_round_key :
    answer (exec .rkread (keyed k192 [] [] 12)) = ok (bytesOf 16 0xa4970a331a78dc09c418c271e3a41d5d) := by decide +kernel

/-- F18: round key 11 of a 16-byte key. -/
theorem test_rkread_past_the_last_faults : answer (exec .rkread (keyed k128 [] [] 11)) = failed 7 := by decide +kernel

theorem test_ksinfo_256 : answer (exec .ksinfo (keyed k256 [] [] 0)) = ok [0x0f, 0x20] := by decide +kernel

/-! ### The block cipher (V-L1-1, V-L2-ENC) -/

theorem test_encblk_source_vector :
    answer (exec .encblk (keyed k128 pt [] 0)) = ok (bytesOf 16 0x69c4e0d86a7b0430d8cdb78070b4c55a) := by decide +kernel

theorem test_encblk_256 :
    answer (exec .encblk (keyed k256 pt [] 0)) = ok (bytesOf 16 0x8ea2b7ca516745bfeafc49904b496089) := by decide +kernel

theorem test_decblk_192 :
    answer (exec .decblk (keyed k192 (bytesOf 16 0xdda97ca4864cdfe06eaf70a0ec0d7191) [] 0)) = ok pt := by decide +kernel

/-- F5: no schedule comes before the block length. -/
theorem test_encblk_no_key_before_length : answer (exec .decblk (withPorts [0x00, 0x11] [] 0)) = failed 2 := by decide

/-! ### Counter mode (V-L2-CTR, V-L2-INC) -/

/-- V-L2-CTR-2a: 33 bytes across the wrap of the counter. -/
theorem test_ctrenc_wraps :
    answer (exec .ctrenc
      (keyed k128 (bytesOf 33 0x000102030405060708090a0b0c0d0e0f101112131415161718191a1b1c1d1e1f20)
        (bytesOf 16 0xffffffffffffffffffffffffffffffff) 0)) =
      ok (bytesOf 33 0x3c451d31ca0284246cdea892025db51cd6b02924939a4d9577569b79bdd5c66653) := by decide +kernel

/-- F12: a bad IV faults although `A` is empty. -/
theorem test_ctrenc_bad_iv_with_no_data : answer (exec .ctrenc (keyed k128 [] (bytesOf 15 0) 0)) = failed 5 := by decide +kernel

/-- V-L1-4: the 5-byte payload. -/
theorem test_ctrdec_five_bytes :
    answer (exec .ctrdec (keyed k128 (bytesOf 5 0x8ec4575be8) (bytesOf 16 0) 0)) = ok (bytesOf 5 0x48656c6c6f) := by
  decide +kernel

theorem test_ctrinc_wraps :
    answer (exec .ctrinc (withPorts (bytesOf 16 0xffffffffffffffffffffffffffffffff) [] 0)) = ok (bytesOf 16 0) := by decide +kernel

theorem test_ctrinc_carries :
    answer (exec .ctrinc (withPorts (bytesOf 16 0xfffffffffffffffeffffffffffffffff) [] 0)) =
      ok (bytesOf 16 0xffffffffffffffff0000000000000000) := by decide +kernel

/-! ### The textual form (R70, R71) -/

theorem test_assemble_all_fields :
    assembleLine "RKREAD  IDX=255 ; last".toList = some { instr := .rkread, a := [], b := [], idx := 255 } := by decide

theorem test_assemble_rejects :
    assembleLine "RKREAD IDX=256".toList = none ∧ assembleLine "XTIME A=0".toList = none ∧ assembleLine "NOP".toList = none := by
  decide

/-! ### Witnesses: for each statement with hypotheses, a state and operands that meet them, clause by clause -/

/-- A host about to present a bare XTIME. -/
def xtimeNext : State := State.reset.withFetchWord 8 0x10

theorem witness_StepRunsDecodedCommand :
    xtimeNext.pending = .command (bareTransaction 0x10) :: [] ∧ decode (bareTransaction 0x10).cmd = .ok .xtime := ⟨rfl, rfl⟩

theorem witness_StepWithoutInputIsIdle : State.reset.pending = [] := rfl

theorem witness_IllegalCommandFaults :
    ∀ w ∈ ([0x00, 0x09, 0x0F, 0x1A, 0xFF] : List Byte),
      (presentNext (bareTransaction w) State.reset).pending = .command (bareTransaction w) :: [] ∧
        (presentNext (bareTransaction w) State.reset).fault = 0 ∧
        ((bareTransaction w).cmd = 0x00 ∨ (0x09 ≤ (bareTransaction w).cmd ∧ (bareTransaction w).cmd ≤ 0x0F) ∨
          0x1A ≤ (bareTransaction w).cmd) := by decide

theorem witness_ResetClears_between : (State.load [.reset]).pending = .reset :: [] := rfl

theorem witness_ResetClears_during :
    (State.load [.resetDuring (bareTransaction 4)]).pending = .resetDuring (bareTransaction 4) :: [] := rfl

/-- For the second clause of the reset statement, and for the held-fault statement. -/
theorem witness_heldFault :
    ({ xtimeNext with fault := 7 } : State).fault ≠ 0 ∧ ∃ u, step { xtimeNext with fault := 7 } = .next u :=
  ⟨by decide, _, rfl⟩

theorem witness_FaultEntryIsPrecise :
    (State.reset).fault = 0 ∧ ∃ t, runPresented State.reset = .next t ∧ t.fault ≠ 0 := ⟨rfl, _, rfl, by decide⟩

/-- A command whose first fault is no schedule, one whose operand is wrong, and one with no fault. -/
theorem witness_OperandTable :
    State.reset.fault = 0 ∧ firstFault .rkread State.reset = 2 ∧ firstFault .xtime State.reset = 6 ∧
      firstFault .ksinfo State.reset = 0 := ⟨rfl, rfl, rfl, rfl⟩

theorem witness_EveryCommandGivesOneResponse : ∃ t, runPresented State.reset = .next t := ⟨_, rfl⟩

theorem witness_CommandsWriteOnlyTheirState :
    (∃ t, exec .ksinfo State.reset = .next t) ∧ ∃ t, exec .keyexpand (withPorts k128 [] 0) = .next t := ⟨⟨_, rfl⟩, _, rfl⟩

/-- RKREAD with other strings on `A` and `B`, and XTIME with another `B` and `IDX`. -/
theorem witness_UnusedOperandsAreIgnored :
    ((readsA .rkread = true → [0x01] = State.reset.a) ∧ (readsB .rkread = true → [0x02, 0x03] = State.reset.b) ∧
      (readsIdx .rkread = true → 0 = State.reset.idx)) ∧
    ((readsA .xtime = true → [] = State.reset.a) ∧ (readsB .xtime = true → [0x02] = State.reset.b) ∧
      (readsIdx .xtime = true → 7 = State.reset.idx)) := by decide

/-- The first and the last step of the recurrence. -/
theorem witness_RoundConstants : (1 ≤ 1 ∧ 1 < 10) ∧ (1 ≤ 9 ∧ 9 < 10) := by decide

theorem witness_SboxRom : isGfInverse 0x00 0x00 = true ∧ isGfInverse 0x01 0x01 = true ∧ isGfInverse 0x02 0x8d = true := by decide

theorem witness_ByteCommands :
    (withPorts [0x57] [] 0).fault = 0 ∧ (withPorts [0x57] [] 0).a = [0x57] ∧ (withPorts [] [] 0).fault = 0 ∧
      (withPorts [] [] 0).a.length ≠ 1 ∧ (withPorts [0x01, 0x02] [] 0).a.length ≠ 1 := by decide

/-- For the statements about a command on a 16-byte `A`. -/
theorem witness_matrixCommands : (withPorts ramp [] 0).fault = 0 ∧ (withPorts ramp [] 0).a.length = 16 := by decide

/-- The first and the last column and row. -/
theorem witness_MixColumns_bytes : (0 < 4 ∧ 0 < 4) ∧ (3 < 4 ∧ 3 < 4) := by decide

theorem witness_BlocksAreColumnMajor : ramp.length = 16 := by decide

theorem witness_AddRoundKey :
    (withPorts ramp ramp 0).fault = 0 ∧ (withPorts ramp ramp 0).a.length = 16 ∧ (withPorts ramp ramp 0).b.length = 16 ∧
      (withPorts ramp (bytesOf 15 0) 0).b.length ≠ 16 ∧ (withPorts (bytesOf 17 0) ramp 0).a.length ≠ 16 := by decide

/-- The three key lengths, with the first derived word, a multiple of Nk, and the last word of each. -/
theorem witness_ExpandedKey_lengths :
    (k128.length = 4 * 4 ∧ (4 = 4 ∧ 10 = 10)) ∧ (k192.length = 4 * 6 ∧ (6 = 6 ∧ 12 = 12)) ∧
      (k256.length = 4 * 8 ∧ (8 = 8 ∧ 14 = 14)) := by decide

/-- Each case of the recurrence occurs: a multiple of Nk, the extra SubWord, neither (and `i mod 6 = 4`, R158). -/
theorem witness_ExpandedKey_cases :
    (4 ≤ 4 ∧ 4 < 4 * (10 + 1) ∧ 4 % 4 = 0) ∧ (8 ≤ 12 ∧ 12 < 4 * (14 + 1) ∧ 12 % 8 ≠ 0 ∧ 8 = 8 ∧ 12 % 8 = 4) ∧
      (6 ≤ 10 ∧ 10 < 4 * (12 + 1) ∧ 10 % 6 ≠ 0 ∧ ¬(6 = 8 ∧ 10 % 6 = 4)) ∧
      (8 ≤ 59 ∧ 59 < 4 * (14 + 1) ∧ 59 % 8 ≠ 0 ∧ ¬(8 = 8 ∧ 59 % 8 = 4)) := by decide

/-- For the statements about a KEYEXPAND that succeeds. -/
theorem witness_KeyExpand :
    (withPorts k128 [] 0).fault = 0 ∧ (withPorts k128 [] 0).a.length = 16 ∧ (withPorts k192 [] 0).a.length = 24 ∧
      (withPorts k256 [] 0).a.length = 32 ∧ ∃ t, exec .keyexpand (withPorts k128 [] 0) = .next t :=
  ⟨rfl, rfl, rfl, rfl, _, rfl⟩

theorem witness_KeyExpandRejects :
    (withPorts (bytesOf 20 0) [] 0).fault = 0 ∧ (withPorts (bytesOf 20 0) [] 0).a.length ≠ 16 ∧
      (withPorts (bytesOf 20 0) [] 0).a.length ≠ 24 ∧ (withPorts (bytesOf 20 0) [] 0).a.length ≠ 32 := by decide

/-- The last round key, the one after it, and no schedule. -/
theorem witness_RoundKeyRead :
    ((keyed k128 [] [] 10).fault = 0 ∧ (keyed k128 [] [] 10).ksValid = true ∧
      (keyed k128 [] [] 10).idx.toNat ≤ rounds (keyed k128 [] [] 10).keyLen) ∧
    ((keyed k128 [] [] 11).ksValid = true ∧ rounds (keyed k128 [] [] 11).keyLen < (keyed k128 [] [] 11).idx.toNat) ∧
    State.reset.ksValid = false := by decide +kernel

theorem witness_ScheduleInfo :
    ((keyed k128 [] [] 0).fault = 0 ∧ (keyed k128 [] [] 0).ksValid = true ∧ (keyed k128 [] [] 0).keyLen = 16) ∧
    ((keyed k192 [] [] 0).fault = 0 ∧ (keyed k192 [] [] 0).ksValid = true ∧ (keyed k192 [] [] 0).keyLen = 24) ∧
    ((keyed k256 [] [] 0).fault = 0 ∧ (keyed k256 [] [] 0).ksValid = true ∧ (keyed k256 [] [] 0).keyLen = 32) ∧
    State.reset.fault = 0 ∧ State.reset.ksValid = false := by decide +kernel

/-- For the statements about ENCBLK and DECBLK that succeed, and their faults. -/
theorem witness_blockCommands :
    ((keyed k128 pt [] 0).fault = 0 ∧ (keyed k128 pt [] 0).ksValid = true ∧ (keyed k128 pt [] 0).a.length = 16) ∧
    ((keyed k128 [] [] 0).ksValid = true ∧ (keyed k128 [] [] 0).a.length ≠ 16) ∧ State.reset.ksValid = false := by
  decide +kernel

/-- For the second clause of the round-trip statement: two blocks with the same answer (they are one block). -/
theorem witness_DecryptionInvertsEncryption :
    (keyed k128 [] [] 0).fault = 0 ∧ (keyed k128 [] [] 0).ksValid = true ∧ pt.length = 16 ∧
      ∃ r, Succeeds .encblk { keyed k128 [] [] 0 with a := pt } r :=
  ⟨by decide +kernel, by decide +kernel, by decide, _, succeeds_of (blockCommand_succeeds (by decide +kernel) (by decide +kernel) (by decide)) rfl⟩

theorem witness_CounterIncrement :
    (withPorts ramp [] 0).fault = 0 ∧ (withPorts ramp [] 0).a.length = 16 ∧ (withPorts (bytesOf 15 0) [] 0).a.length ≠ 16 := by
  decide

theorem witness_CounterValue :
    (bytesOf 16 0xff).length = 16 ∧ (bytesOf 16 0xff).length = 16 ∧ counterValue (bytesOf 16 0xff) = counterValue (bytesOf 16 0xff) :=
  ⟨by decide, by decide, rfl⟩

/-- Counter-mode data of 33 bytes at its last byte, whose counter is past the wrap: IV all `ff`, block 2, counter 1. -/
theorem witness_CounterMode :
    ((keyed k128 (bytesOf 33 0) (bytesOf 16 0xffffffffffffffffffffffffffffffff) 0).fault = 0 ∧
      (keyed k128 (bytesOf 33 0) (bytesOf 16 0xffffffffffffffffffffffffffffffff) 0).ksValid = true ∧
      (keyed k128 (bytesOf 33 0) (bytesOf 16 0xffffffffffffffffffffffffffffffff) 0).b.length = 16) ∧
    32 < (bytesOf 33 0).length ∧ (bytesOf 16 1).length = 16 ∧
      counterValue (bytesOf 16 1) = (counterValue (bytesOf 16 0xffffffffffffffffffffffffffffffff) + 32 / 16) % 2 ^ 128 := by
  decide +kernel

theorem witness_CounterModeFaults :
    State.reset.fault = 0 ∧ State.reset.ksValid = false ∧ (keyed k128 [] (bytesOf 17 0) 0).fault = 0 ∧
      (keyed k128 [] (bytesOf 17 0) 0).ksValid = true ∧ (keyed k128 [] (bytesOf 17 0) 0).b.length ≠ 16 := by decide +kernel

theorem witness_LongCounterData :
    16 < (withPorts (bytesOf 17 0) [] 0).a.length ∧ (withPorts (bytesOf 16 0) [] 0).a.length ≤ 16 := by decide

/-- The invariant's own witness is a state with a schedule loaded; that it holds at reset is a statement. -/
theorem witness_Inv_after_keyexpand : (loadKey k128 State.reset).Inv where
  keyLenLegal := .inr (.inl (by simp [lengthByte]; decide))
  keyLenZero := by simp [lengthByte]; decide
  faultLegal := by simp [State.reset]
  scheduleHeld := fun _ => ⟨k128, by simp [lengthByte]; decide, by
    intro i h
    rw [loadKey_keyLen] at h
    exact (loadKey_loaded k128 State.reset).2.2 i h⟩
  responsesLegal := by simp [State.reset]

/-- A state that has the invariant, with a schedule loaded and a transaction to come. -/
theorem witness_EveryStepKeepsTheInvariant :
    (presentNext (bareTransaction 0x10) (loadKey k128 State.reset)).Inv ∧
      ∃ t, step (presentNext (bareTransaction 0x10) (loadKey k128 State.reset)) = .next t :=
  ⟨⟨witness_Inv_after_keyexpand.keyLenLegal, witness_Inv_after_keyexpand.keyLenZero, witness_Inv_after_keyexpand.faultLegal,
    witness_Inv_after_keyexpand.scheduleHeld, witness_Inv_after_keyexpand.responsesLegal⟩, _, rfl⟩

/-- Two schedule files that agree on the 44 words of a 16-byte key's schedule, and differ above. -/
theorem witness_UnspecifiedScheduleEntries :
    (keyed k128 [] [] 0).ksValid = true ∧
      ∀ i, i < 44 → (loadedSchedule k128 5)[i]? = (loadedSchedule k128 1)[i]? := by
  refine ⟨by decide +kernel, fun i h => ?_⟩
  have h60 : i < 60 := by omega
  have hw : i < expandedWords k128 := by
    rw [expandedWords_eq (.inl (by decide))]; exact h
  rw [Vector.getElem?_eq_getElem h60, Vector.getElem?_eq_getElem h60]
  simp only [loadedSchedule_getElem _ _ h60, hw, if_true]

theorem witness_KeylessCommands :
    State.reset.fault = 0 ∧ State.reset.ksValid = false ∧ needsSchedule .rkread = true ∧ needsSchedule .xtime = false :=
  ⟨rfl, rfl, rfl, rfl⟩

/-- A RESET of each kind after the last transaction. -/
theorem witness_RunEndsAfterItsLastResponse :
    ∀ x ∈ [HostInput.reset, HostInput.resetDuring (bareTransaction 0x10)], getsResponse x = false := by decide

end Sys2Proof.Tests
end

section
/-! PROOFS of the family 00_scope: a 16-byte string as a state matrix (R10, R43). -/

namespace Sys2Proof.Machine

/-- `S[c][r]` of a matrix read from a string is byte `4c+r` of the string (R10). -/
@[simp] theorem get_toState (b : Bytes) (c r : Fin 4) : (toState b).get c r = byteAt b (4 * c.val + r.val) :=
  Matrix.get_ofFn _ c r

end Sys2Proof.Machine

namespace Sys2Proof

open Machine

/-- Settles O23: each entry is read and written at byte `4c+r`, and a block of 16 bytes is fixed by its 16 entries. -/
theorem blocksAreColumnMajor : Obligations.BlocksAreColumnMajor :=
  ⟨get_toState, byteAt_fromState, fun S => ⟨length_fromState S, toState_fromState S⟩, fun _ => fromState_toState⟩

end Sys2Proof
end

section
/-! PROOFS of the family 10_state: how a command can end, what it writes, the invariant of every step, and the schedule
entries that no command reads (R20 to R30, R48, R63, R211 to R214). -/

namespace Sys2Proof.Machine

variable {i : Instr} {s s' t t' u u' : State} {other : Vector Word 60}

/-! ### How a command ends (R29, R48, R212, R213) -/

/-- Everything a command can do: answer the fault that is held (R212), take a fault (R213), answer a result and write
nothing (R29), or, KEYEXPAND with a legal key only, load the schedule of its key (R159). -/
inductive CommandEnds (i : Instr) (s : State) : Host.Outcome State Fault Refusal → Prop
  | held (hf : s.fault ≠ 0) : CommandEnds i s (.next (answerHeldFault s))
  | faults (hf : s.fault = 0) (c : Cause) : CommandEnds i s (.next (takeFault c s))
  | answers (hf : s.fault = 0) (hi : i ≠ .keyexpand) (r : Bytes) : CommandEnds i s (.next (succeed r s))
  | loads (hf : s.fault = 0) (hi : i = .keyexpand)
      (ha : s.a.length = 16 ∨ s.a.length = 24 ∨ s.a.length = 32) :
      CommandEnds i s (.next (succeed [] (loadKey s.a s)))

/-- Behind the held-fault check only the end without a held fault is left to show. -/
theorem CommandEnds.unlessFaultHeld (h : s.fault = 0 → CommandEnds i s (.next t)) :
    CommandEnds i s (unlessFaultHeld s t) := by
  by_cases hf : s.fault = 0
  · rw [unlessFaultHeld_clear hf]; exact h hf
  · rw [unlessFaultHeld_held hf]; exact .held hf

theorem execIllegal_ends (i : Instr) (s : State) : CommandEnds i s (execIllegal s) :=
  .unlessFaultHeld fun hf => .faults hf _

/-- A command that checks one operand and then answers: the component commands and CTRINC. -/
theorem CommandEnds.of_oneCheck (hi : i ≠ .keyexpand) {p : Prop} [Decidable p] {c : Cause} {r : Bytes} :
    CommandEnds i s (Machine.unlessFaultHeld s (if p then takeFault c s else succeed r s)) :=
  .unlessFaultHeld fun hf => by
    split
    · exact .faults hf c
    · exact .answers hf hi r

/-- A command that checks the schedule, then one operand, and then answers: RKREAD, the block commands and counter
mode. -/
theorem CommandEnds.of_twoChecks (hi : i ≠ .keyexpand) {p q : Prop} [Decidable p] [Decidable q] {c c' : Cause}
    {r : Bytes} :
    CommandEnds i s
      (Machine.unlessFaultHeld s (if p then takeFault c s else if q then takeFault c' s else succeed r s)) :=
  .unlessFaultHeld fun hf => by
    split_ifs
    · exact .faults hf c
    · exact .faults hf c'
    · exact .answers hf hi r

theorem execKeyexpand_ends (s : State) : CommandEnds .keyexpand s (execKeyexpand s) :=
  .unlessFaultHeld fun hf => by
    split
    · exact .faults hf _
    · exact .loads hf rfl (by omega)

theorem execKsinfo_ends (s : State) : CommandEnds .ksinfo s (execKsinfo s) :=
  .unlessFaultHeld fun hf => by
    split
    · exact .answers hf (by decide) _
    · exact .answers hf (by decide) _

/-- Every command ends in one of the four ways, from every state: counter mode has no bound to refuse (log entry 3). -/
theorem exec_ends (i : Instr) (s : State) : CommandEnds i s (exec i s) :=
  match i with
  | .keyexpand => execKeyexpand_ends s
  | .ksinfo => execKsinfo_ends s
  | .rkread | .encblk | .decblk | .ctrenc | .ctrdec => .of_twoChecks (by decide)
  | .ctrinc | .xtime | .sbox | .invsbox | .subbytes | .invsubbytes | .shiftrows | .invshiftrows | .mixcolumns
  | .invmixcolumns | .addroundkey => .of_oneCheck (by decide)

/-- Every command word ends as some command can; an illegal one (R67) in the two ways that every command has. -/
theorem runPresented_ends (s : State) : ∃ i, CommandEnds i s (runPresented s) := by
  obtain ⟨i, -, h⟩ | h := runPresented_cases s
  · exact ⟨i, h ▸ exec_ends i s⟩
  · exact ⟨.ksinfo, h ▸ execIllegal_ends .ksinfo s⟩

/-! ### The invariant (R22, R24, R63, R211) -/

/-- The form R63 gives a response: a status that is a code of R211, and an empty `R` on failure. -/
def LegalResponse (p : Response) : Prop := p.status.toNat ≤ 7 ∧ (p.status ≠ 0 → p.r = [])

/-- With no schedule loaded, the invariant asks for legal registers and responses only. -/
theorem State.Inv.of_noSchedule (hv : s.ksValid = false) (hl : s.keyLen = 0) (hf : s.fault.toNat ≤ 7)
    (hr : ∀ p ∈ s.responses, LegalResponse p) : s.Inv where
  keyLenLegal := .inl hl
  keyLenZero := iff_of_true hl hv
  faultLegal := hf
  scheduleHeld := fun h => absurd h (by simp [hv])
  responsesLegal := hr

/-- Where the schedule registers stay as they were, the invariant asks for a legal `FAULT` and legal responses only. -/
theorem State.Inv.of_sameSchedule (h : s.Inv) (hv : t.ksValid = s.ksValid) (hl : t.keyLen = s.keyLen)
    (hw : t.ksw = s.ksw) (hf : t.fault.toNat ≤ 7) (hr : ∀ p ∈ t.responses, LegalResponse p) : t.Inv where
  keyLenLegal := hl ▸ h.keyLenLegal
  keyLenZero := by rw [hl, hv]; exact h.keyLenZero
  faultLegal := hf
  scheduleHeld := by rw [hl, hv, ksWord_congr hw]; exact h.scheduleHeld
  responsesLegal := hr

/-- A legal response after legal ones. -/
theorem State.Inv.responses_concat (h : s.Inv) {p : Response} (hp : LegalResponse p) :
    ∀ q ∈ s.responses ++ [p], LegalResponse q := by
  intro q hq
  obtain hq | hq := List.mem_append.1 hq
  · exact h.responsesLegal q hq
  · exact List.mem_singleton.1 hq ▸ hp

theorem State.Inv.answerHeldFault (h : s.Inv) : (answerHeldFault s).Inv :=
  h.of_sameSchedule rfl rfl rfl h.faultLegal (h.responses_concat ⟨h.faultLegal, fun _ => rfl⟩)

theorem State.Inv.takeFault (h : s.Inv) (c : Cause) : (takeFault c s).Inv :=
  h.of_sameSchedule rfl rfl rfl (causeCode_le c) (h.responses_concat ⟨causeCode_le c, fun _ => rfl⟩)

theorem State.Inv.succeed (h : s.Inv) (r : Bytes) : (succeed r s).Inv :=
  h.of_sameSchedule rfl rfl rfl h.faultLegal (h.responses_concat ⟨Nat.zero_le 7, fun hne => absurd rfl hne⟩)

theorem State.Inv.present (h : s.Inv) (t : Transaction) (rest : List HostInput) : (present t rest s).Inv :=
  h.of_sameSchedule rfl rfl rfl h.faultLegal h.responsesLegal

theorem State.Inv.takeReset (h : s.Inv) (rest : List HostInput) : (takeReset rest s).Inv :=
  .of_noSchedule rfl rfl (by simp) h.responsesLegal

/-- `KEY_LEN` of a legal key is 16, 24 or 32 (R22, R159). -/
theorem lengthByte_legal {key : Bytes} (hk : key.length = 16 ∨ key.length = 24 ∨ key.length = 32) :
    lengthByte key = 16 ∨ lengthByte key = 24 ∨ lengthByte key = 32 := by
  obtain hk | hk | hk := hk <;> simp [lengthByte, hk]

/-- The loaded key is the key of which the schedule file holds the expansion (R24, R159). -/
theorem State.Inv.loadKey (h : s.Inv) {key : Bytes} (hk : key.length = 16 ∨ key.length = 24 ∨ key.length = 32) :
    (loadKey key s).Inv where
  keyLenLegal := by rw [loadKey_keyLen]; exact .inr (lengthByte_legal hk)
  keyLenZero := by
    rw [loadKey_keyLen, loadKey_ksValid]
    obtain hl | hl | hl := lengthByte_legal hk <;> simp [hl]
  faultLegal := by rw [loadKey_fault]; exact h.faultLegal
  scheduleHeld := by
    intro _
    rw [loadKey_keyLen]
    exact ⟨key, (lengthByte_toNat hk).symm, (loadKey_loaded key s).2.2⟩
  responsesLegal := by rw [loadKey_responses]; exact h.responsesLegal

/-- A command keeps the invariant, however it ends. -/
theorem CommandEnds.inv (he : CommandEnds i s (.next t)) (h : s.Inv) : t.Inv := by
  cases he with
  | held => exact h.answerHeldFault
  | faults _ c => exact h.takeFault c
  | answers _ _ r => exact h.succeed r
  | loads _ _ ha => exact (h.loadKey ha).succeed []

/-! ### The unspecified entries of the schedule file (R24, R42, R159) -/

/-- Two states agree on what the host can see of one command and on the registers other than `KS.W`. -/
structure SameVisible (t u : State) : Prop where
  ksValid : t.ksValid = u.ksValid
  keyLen : t.keyLen = u.keyLen
  fault : t.fault = u.fault
  responses : t.responses = u.responses

/-- Replacing the schedule file is not visible before a command has run. -/
theorem SameVisible.replace_ksw (s : State) (other : Vector Word 60) : SameVisible s { s with ksw := other } :=
  ⟨rfl, rfl, rfl, rfl⟩

theorem SameVisible.respond (h : SameVisible t u) (status : Byte) {r r' : Bytes} (hr : r = r') :
    SameVisible (respond status r t) (respond status r' u) where
  ksValid := h.ksValid
  keyLen := h.keyLen
  fault := h.fault
  responses := by rw [respond_responses, respond_responses, h.responses, hr]

theorem SameVisible.takeFault (h : SameVisible t u) (c : Cause) : SameVisible (takeFault c t) (takeFault c u) :=
  have hc : SameVisible { t with fault := causeCode c } { u with fault := causeCode c } :=
    ⟨h.ksValid, h.keyLen, rfl, h.responses⟩
  hc.respond _ rfl

theorem SameVisible.succeed (h : SameVisible t u) {r r' : Bytes} (hr : r = r') :
    SameVisible (succeed r t) (succeed r' u) :=
  h.respond _ hr

theorem SameVisible.answerHeldFault (h : SameVisible t u) : SameVisible (answerHeldFault t) (answerHeldFault u) := by
  rw [Machine.answerHeldFault, Machine.answerHeldFault, h.fault]
  exact h.respond _ rfl

/-- A load decides `KS_VALID` and `KEY_LEN` by the key alone (R159). -/
theorem SameVisible.loadKey (h : SameVisible t u) (key : Bytes) : SameVisible (loadKey key t) (loadKey key u) where
  ksValid := by simp
  keyLen := by simp
  fault := by simpa using h.fault
  responses := by simpa using h.responses

/-- Two commands that make the same decision agree when each of its two ways does. -/
theorem SameVisible.ite {p : Prop} [Decidable p] (h : p → SameVisible t u) (h' : ¬p → SameVisible t' u') :
    SameVisible (if p then t else t') (if p then u else u') := by
  split
  · next hp => exact h hp
  · next hp => exact h' hp

/-- The held-fault check reads `FAULT` only. -/
theorem SameVisible.unlessFaultHeld (h : SameVisible s t) (h' : SameVisible s' t') :
    SameAnswer (unlessFaultHeld s s') (unlessFaultHeld t t') := by
  have hr : SameVisible (if s.fault = codeNone then s' else Machine.answerHeldFault s)
      (if t.fault = codeNone then t' else Machine.answerHeldFault t) := by
    rw [← h.fault]
    exact .ite (fun _ => h') fun _ => h.answerHeldFault
  exact ⟨_, _, rfl, rfl, hr.ksValid, hr.keyLen, hr.fault, hr.responses⟩

/-- EncryptBlock's rounds `1..n` read the round keys up to `n` only (R171). -/
theorem encryptRounds_congr {rk rk' : Nat → Matrix} {n : Nat} (h : ∀ k ≤ n, rk k = rk' k) (S : Matrix) :
    encryptRounds rk n S = encryptRounds rk' n S := by
  induction n with
  | zero => rfl
  | succ n ih =>
    rw [encryptRounds, encryptRounds, h _ le_rfl, ih fun k hk => h k (Nat.le_succ_of_le hk)]

/-- DecryptBlock's rounds `n downto 1` read the round keys up to `n` only (R174). -/
theorem decryptRounds_congr {rk rk' : Nat → Matrix} {n : Nat} (h : ∀ k ≤ n, rk k = rk' k) (S : Matrix) :
    decryptRounds rk n S = decryptRounds rk' n S := by
  induction n generalizing S with
  | zero => rfl
  | succ n ih =>
    rw [decryptRounds, decryptRounds, h _ le_rfl, ih fun k hk => h k (Nat.le_succ_of_le hk)]

theorem encryptMatrix_congr {rk rk' : Nat → Matrix} {nr : Nat} (h : ∀ k ≤ nr, rk k = rk' k) (S : Matrix) :
    encryptMatrix rk nr S = encryptMatrix rk' nr S := by
  rw [encryptMatrix, encryptMatrix, h 0 (Nat.zero_le _), h nr le_rfl,
    encryptRounds_congr fun k hk => h k (hk.trans (Nat.sub_le _ _))]

theorem decryptMatrix_congr {rk rk' : Nat → Matrix} {nr : Nat} (h : ∀ k ≤ nr, rk k = rk' k) (S : Matrix) :
    decryptMatrix rk nr S = decryptMatrix rk' nr S := by
  rw [decryptMatrix, decryptMatrix, h 0 (Nat.zero_le _), h nr le_rfl,
    decryptRounds_congr fun k hk => h k (hk.trans (Nat.sub_le _ _))]

/-- The file agrees with `KS.W` on every entry that the spec gives a value: none while `KS_VALID = 0`, those below
`4*(Nr+1)` while it is 1 (R24, R30, R159). -/
def AgreesWhereSpecified (other : Vector Word 60) (s : State) : Prop :=
  s.ksValid = true → ∀ i, i < scheduleWords s.keyLen → other[i]? = s.ksw[i]?

/-- The round keys up to Nr lie in the specified entries (R24, R157). -/
theorem AgreesWhereSpecified.roundKey_eq (h : AgreesWhereSpecified other s) (hv : s.ksValid = true) {k : Nat}
    (hk : k ≤ rounds s.keyLen) : roundKey s k = roundKey { s with ksw := other } k := by
  refine Matrix.ext_get fun c r => ?_
  have hi : 4 * k + c.val < scheduleWords s.keyLen := by unfold scheduleWords; omega
  rw [roundKey_get, roundKey_get, ksWord, ksWord, h hv _ hi]

theorem AgreesWhereSpecified.encryptBlock_eq (h : AgreesWhereSpecified other s) (hv : s.ksValid = true) :
    encryptBlock s = encryptBlock { s with ksw := other } :=
  funext fun _ => congrArg fromState (encryptMatrix_congr (fun _ hk => h.roundKey_eq hv hk) _)

theorem AgreesWhereSpecified.decryptBlock_eq (h : AgreesWhereSpecified other s) (hv : s.ksValid = true) :
    decryptBlock s = decryptBlock { s with ksw := other } :=
  funext fun _ => congrArg fromState (decryptMatrix_congr (fun _ hk => h.roundKey_eq hv hk) _)

theorem execIllegal_sameAnswer (s : State) (other : Vector Word 60) :
    SameAnswer (execIllegal s) (execIllegal { s with ksw := other }) :=
  have hs := SameVisible.replace_ksw s other
  hs.unlessFaultHeld (hs.takeFault _)

/-- A command that checks one operand, and whose check and answer do not read the schedule file. -/
theorem sameAnswer_of_oneCheck {p : Prop} [Decidable p] {c : Cause} {r : Bytes} :
    SameAnswer (unlessFaultHeld s (if p then takeFault c s else succeed r s))
      (unlessFaultHeld { s with ksw := other }
        (if p then takeFault c { s with ksw := other } else succeed r { s with ksw := other })) :=
  have hs := SameVisible.replace_ksw s other
  hs.unlessFaultHeld (.ite (fun _ => hs.takeFault c) fun _ => hs.succeed rfl)

/-- A command that checks the schedule and then one operand: only its answer can read the schedule file, and only after
both checks. -/
theorem sameAnswer_of_twoChecks {p q : Prop} [Decidable p] [Decidable q] {c c' : Cause} {r r' : Bytes}
    (hr : ¬p → ¬q → r = r') :
    SameAnswer (unlessFaultHeld s (if p then takeFault c s else if q then takeFault c' s else succeed r s))
      (unlessFaultHeld { s with ksw := other }
        (if p then takeFault c { s with ksw := other } else if q then takeFault c' { s with ksw := other }
          else succeed r' { s with ksw := other })) :=
  have hs := SameVisible.replace_ksw s other
  hs.unlessFaultHeld (.ite (fun _ => hs.takeFault c) fun hp => .ite (fun _ => hs.takeFault c') fun hq =>
    hs.succeed (hr hp hq))

theorem execKsinfo_sameAnswer (s : State) (other : Vector Word 60) :
    SameAnswer (execKsinfo s) (execKsinfo { s with ksw := other }) :=
  have hs := SameVisible.replace_ksw s other
  hs.unlessFaultHeld (.ite (fun _ => hs.succeed rfl) fun _ => hs.succeed rfl)

theorem execKeyexpand_sameAnswer (s : State) (other : Vector Word 60) :
    SameAnswer (execKeyexpand s) (execKeyexpand { s with ksw := other }) :=
  have hs := SameVisible.replace_ksw s other
  hs.unlessFaultHeld (.ite (fun _ => hs.takeFault _) fun _ => (hs.loadKey s.a).succeed rfl)

/-- RKREAD reads a round key up to Nr, after it has tested `KS_VALID` and `IDX` (R160). -/
theorem AgreesWhereSpecified.execRkread_sameAnswer (h : AgreesWhereSpecified other s) :
    SameAnswer (execRkread s) (execRkread { s with ksw := other }) :=
  sameAnswer_of_twoChecks fun hv hk =>
    congrArg fromState (h.roundKey_eq (Bool.of_not_eq_false hv) (Nat.le_of_not_lt hk))

/-- A block command agrees when its function of the loaded schedule does (R172, R175). -/
theorem blockCommand_sameAnswer {f : State → Bytes → Bytes}
    (hf : s.ksValid = true → f s = f { s with ksw := other }) :
    SameAnswer (blockCommand f s) (blockCommand f { s with ksw := other }) :=
  sameAnswer_of_twoChecks fun hv _ => congrFun (hf (Bool.of_not_eq_false hv)) s.a

/-- Counter mode reads the schedule through EncryptBlock only (R190, R191). -/
theorem AgreesWhereSpecified.ctrCommand_sameAnswer (h : AgreesWhereSpecified other s) :
    SameAnswer (ctrCommand none s) (ctrCommand none { s with ksw := other }) :=
  sameAnswer_of_twoChecks fun hv _ =>
    congrArg (fun enc => ctrBlocks enc (blockCount s.a.length) s.a s.b) (h.encryptBlock_eq (Bool.of_not_eq_false hv))

/-- No command's answer depends on the entries without a value. -/
theorem AgreesWhereSpecified.exec_sameAnswer (h : AgreesWhereSpecified other s) (i : Instr) :
    SameAnswer (exec i s) (exec i { s with ksw := other }) :=
  match i with
  | .keyexpand => execKeyexpand_sameAnswer s other
  | .rkread => h.execRkread_sameAnswer
  | .ksinfo => execKsinfo_sameAnswer s other
  | .encblk => blockCommand_sameAnswer h.encryptBlock_eq
  | .decblk => blockCommand_sameAnswer h.decryptBlock_eq
  | .ctrenc | .ctrdec => h.ctrCommand_sameAnswer
  | .ctrinc | .xtime | .sbox | .invsbox | .subbytes | .invsubbytes | .shiftrows | .invshiftrows | .mixcolumns
  | .invmixcolumns | .addroundkey => sameAnswer_of_oneCheck

end Sys2Proof.Machine

namespace Sys2Proof

open Machine

/-- Settles O51: the step is idle, a RESET, or a command, which keeps the invariant however it ends. -/
theorem everyStepKeepsTheInvariant : Obligations.EveryStepKeepsTheInvariant := by
  intro s u h hstep
  obtain ⟨-, rfl⟩ | ⟨t, rest, -, hrun⟩ | ⟨t, rest, -, rfl⟩ := step_cases hstep
  · exact h
  · obtain ⟨i, he⟩ := runPresented_ends (present t rest s)
    exact (hrun ▸ he).inv (h.present t rest)
  · exact h.takeReset rest

/-- Settles O15: of the four ends of a command, only a load writes more than `FAULT` and the responses. -/
theorem commandsWriteOnlyTheirState : Obligations.CommandsWriteOnlyTheirState := by
  intro i s t h
  have he := exec_ends i s
  rw [h] at he
  cases he with
  | held => exact ⟨fun _ => rfl, rfl⟩
  | faults => exact ⟨fun _ => rfl, rfl⟩
  | answers => exact ⟨fun _ => rfl, rfl⟩
  | loads _ hi =>
    refine ⟨fun hne => absurd hi hne, ?_⟩
    rw [loadKey_frame]; rfl

/-- Settles O53: the two states decode the same word, and the command or the illegal word answers both the same. -/
theorem unspecifiedScheduleEntriesAreNeverRead : Obligations.UnspecifiedScheduleEntriesAreNeverRead := by
  intro s other h
  cases hd : decode s.cmd with
  | ok i =>
    rw [runPresented_ok hd, runPresented_ok (s := { s with ksw := other }) hd]
    exact AgreesWhereSpecified.exec_sameAnswer h i
  | error e =>
    rw [runPresented_error hd, runPresented_error (s := { s with ksw := other }) hd]
    exact execIllegal_sameAnswer s other

/-- Settles O6: the step presents the transaction, and the presented word is the one decoded. -/
theorem stepRunsDecodedCommand : Obligations.StepRunsDecodedCommand :=
  fun _ _ _ _ hp hd => (step_command hp).trans (runPresented_ok hd)

/-- Settles O10, by the definition of the state after reset. -/
theorem resetValuesOfTheRegisters : Obligations.ResetValuesOfTheRegisters := ⟨rfl, rfl, rfl⟩

/-- Settles O52: no schedule is loaded and no response has been given. -/
theorem invariantHoldsAtReset : Obligations.InvariantHoldsAtReset :=
  .of_noSchedule rfl rfl (Nat.zero_le 7) nofun

end Sys2Proof
end

section
/-! PROOFS of the family 20_memory: the counter as a big-endian integer (R44), and the repeated KEYEXPAND (R48). -/

namespace Sys2Proof.Machine

variable {c d key r : Bytes} {s : State}

/-! ### The value of a counter (R44) -/

/-- Byte `i` of a counter of any length weighs 256 to the number of bytes after it (R44). -/
theorem counterValue_eq_sum (c : Bytes) :
    counterValue c = ((List.range c.length).map fun i => (c.getD i 0).toNat * 256 ^ (c.length - 1 - i)).sum := by
  induction c with
  | nil => rfl
  | cons x rest ih =>
    rw [List.length_cons, List.range_succ_eq_map]
    simp [Function.comp_def, ih, Nat.sub_sub, Nat.add_comm 1]

/-- The bytes of a counter, least significant first, are the digits of its value in base 256 (R44). -/
theorem counterValue_eq_ofDigits (c : Bytes) :
    counterValue c = Nat.ofDigits 256 (c.reverse.map BitVec.toNat) := by
  induction c with
  | nil => rfl
  | cons x rest ih => simp [Nat.ofDigits_append, ih, Nat.add_comm, Nat.mul_comm]

/-- Counters of one length are equal when their values are: digits of one base, as many in both, are determined by the
number. -/
theorem eq_of_counterValue_eq (hl : c.length = d.length) (h : counterValue c = counterValue d) : c = d := by
  have hdigit (b : Bytes) : ∀ n ∈ b.reverse.map BitVec.toNat, n < 256 := by
    simp only [List.mem_map]
    rintro _ ⟨x, -, rfl⟩
    exact x.isLt
  rw [counterValue_eq_ofDigits, counterValue_eq_ofDigits] at h
  have hrev := Nat.ofDigits_inj_of_len_eq (by decide) (by simp [hl]) (hdigit c) (hdigit d) h
  exact List.reverse_injective (List.map_injective_iff.2 (fun _ _ => BitVec.eq_of_toNat_eq) hrev)

/-! ### A repeated KEYEXPAND (R48) -/

/-- After a load, the schedule of that key counts as loaded (R48). -/
theorem scheduleLoaded_loadKey (key : Bytes) (s : State) : scheduleLoaded key (loadKey key s) = true :=
  scheduleLoaded_iff.2 (loadKey_loaded key s)

/-- A response does not change which schedule is loaded (R29). -/
@[simp] theorem scheduleLoaded_succeed : scheduleLoaded key (succeed r s) = scheduleLoaded key s := rfl

/-- KEYEXPAND of the key whose schedule is loaded answers and writes nothing, `KS.W` and the free draws included (R48). -/
theorem keyexpand_succeeds_of_loaded (hf : s.fault = 0) (ha : s.a.length = 16 ∨ s.a.length = 24 ∨ s.a.length = 32)
    (hl : scheduleLoaded s.a s = true) : Succeeds .keyexpand s [] := by
  refine succeeds_of ?_ rfl
  calc exec .keyexpand s = .next (succeed [] (loadKey s.a s)) := execKeyexpand_succeeds hf ha
    _ = .next (succeed [] s) := by rw [loadKey_of_loaded hl]

end Sys2Proof.Machine

namespace Sys2Proof

open Machine

/-- Settles O46: the sum for 16 bytes is the sum for every length, and the value determines the base-256 digits. -/
theorem counterValueIsTheBigEndianSum : Obligations.CounterValueIsTheBigEndianSum := by
  refine ⟨fun c hc => ?_, fun c d hc hd => eq_of_counterValue_eq (hc.trans hd.symm)⟩
  rw [counterValue_eq_sum, hc]

/-- Settles O37: the first KEYEXPAND leaves the schedule of its key loaded, with the key still on the port, and the second
finds it so. -/
theorem repeatedKeyExpandLeavesTheState : Obligations.RepeatedKeyExpandLeavesTheState := by
  intro s t hf ha h
  cases (execKeyexpand_succeeds hf ha).symm.trans h
  refine keyexpand_succeeds_of_loaded ?_ ?_ ?_
  · simpa using hf
  · simpa using ha
  · simp [scheduleLoaded_loadKey]

end Sys2Proof
end

section
/-! PROOFS of the family 30_encoding: the decoder and the opcode map (R66 to R69, R71), and the textual form
(R70, R71). -/

namespace Sys2Proof

variable {cmd : Byte} {i : Instr} {t : Transaction} {c : Command}

/-! ### The decoder (R66, R67, R69) -/

/-- The decoder gives the instruction of a row that selects the word, or no row of the table selects it. -/
theorem decodeIn_cases (table : List OpcodeRow) (cmd : Byte) :
    (∃ row ∈ table, row.selects cmd = true ∧ decodeIn table cmd = .ok row.instr) ∨
      ((∀ row ∈ table, row.selects cmd = false) ∧ decodeIn table cmd = .error (.illegalCommand cmd)) := by
  induction table with
  | nil => exact .inr ⟨nofun, rfl⟩
  | cons row rest ih =>
    by_cases hrow : row.selects cmd = true
    · exact .inl ⟨row, List.mem_cons_self, hrow, if_pos hrow⟩
    · have hskip : decodeIn (row :: rest) cmd = decodeIn rest cmd := if_neg hrow
      rw [hskip]
      obtain ⟨r, hr, h⟩ | ⟨hnone, h⟩ := ih
      · exact .inl ⟨r, List.mem_cons_of_mem _ hr, h⟩
      · exact .inr ⟨List.forall_mem_cons.2 ⟨Bool.eq_false_iff.2 hrow, hnone⟩, h⟩

/-- "Every row has mask 0xFF", and its pattern is the opcode of its command (R66). -/
theorem opcodeTable_mask_pattern : ∀ row ∈ opcodeTable, row.mask = 0xFF ∧ row.pattern = encode row.instr := by
  decide

open Laws.OpcodeRow in
/-- What is said of each command's row and mnemonic holds of every command (R66, R70). -/
theorem opcodeRow_statement (i : Instr) : Laws.OpcodeRow.Statement i := by
  cases i
  exacts [keyexpand, rkread, ksinfo, encblk, decblk, ctrenc, ctrdec, ctrinc, xtime, sbox, invsbox, subbytes,
    invsubbytes, shiftrows, invshiftrows, mixcolumns, invmixcolumns, addroundkey]

/-- Every command has a row in the opcode map (R66). -/
theorem exists_opcodeTable_row (i : Instr) : ∃ row ∈ opcodeTable, row.instr = i := by
  have hrow : OpcodeRow.mk 0xFF (encode i) i ∈ opcodeTable.filter fun row => row.instr == i := by
    rw [(opcodeRow_statement i).1]; exact List.mem_singleton_self _
  exact ⟨_, List.mem_of_mem_filter hrow, rfl⟩

/-- A row of the opcode map selects the opcode of its command and no other word. -/
theorem selects_iff_of_mem {row : OpcodeRow} (h : row ∈ opcodeTable) :
    row.selects cmd = true ↔ encode row.instr = cmd := by
  obtain ⟨hm, hp⟩ := opcodeTable_mask_pattern row h
  have hall : cmd &&& 0xFF = cmd := BitVec.and_allOnes
  rw [OpcodeRow.selects, hm, hp, hall, beq_iff_eq, eq_comm]

/-- R69: a word decodes to the command with that opcode, or it is no command's opcode and is illegal. -/
theorem decode_cases (cmd : Byte) :
    (∃ i, decode cmd = .ok i ∧ encode i = cmd) ∨
      (decode cmd = .error (.illegalCommand cmd) ∧ ∀ i, encode i ≠ cmd) := by
  obtain ⟨row, hmem, hsel, h⟩ | ⟨hnone, h⟩ := decodeIn_cases opcodeTable cmd
  · exact .inl ⟨row.instr, h, (selects_iff_of_mem hmem).1 hsel⟩
  · refine .inr ⟨h, fun i hi => ?_⟩
    obtain ⟨row, hmem, rfl⟩ := exists_opcodeTable_row i
    exact Bool.false_ne_true ((hnone row hmem).symm.trans ((selects_iff_of_mem hmem).2 hi))

@[simp] theorem decode_encode (i : Instr) : decode (encode i) = .ok i := by cases i <;> rfl

/-- A word decodes to the command whose opcode it is. -/
theorem decode_eq_ok_iff : decode cmd = .ok i ↔ encode i = cmd := by
  refine ⟨fun h => ?_, fun h => h ▸ decode_encode i⟩
  obtain ⟨j, hj, rfl⟩ | ⟨herr, -⟩ := decode_cases cmd
  · cases hj.symm.trans h; rfl
  · cases herr.symm.trans h

/-- A word that is no command's opcode is illegal (R67). -/
theorem decode_eq_error (h : ∀ i, encode i ≠ cmd) : decode cmd = .error (.illegalCommand cmd) := by
  obtain ⟨i, -, hi⟩ | ⟨herr, -⟩ := decode_cases cmd
  · exact absurd hi (h i)
  · exact herr

/-- The ranges of words that R67 lists as illegal hold no opcode. -/
theorem encode_ne_of_illegalRange (h : cmd = 0x00 ∨ (0x09 ≤ cmd ∧ cmd ≤ 0x0F) ∨ 0x1A ≤ cmd) (i : Instr) :
    encode i ≠ cmd := by
  rintro rfl
  cases i <;> revert h <;> decide

theorem decodeTransaction_eq_ok_iff :
    decodeTransaction t = .ok c ↔ decode t.cmd = .ok c.instr ∧ t.a = c.a ∧ t.b = c.b ∧ t.idx = c.idx := by
  obtain ⟨i, a, b, idx⟩ := c
  unfold decodeTransaction
  cases decode t.cmd with
  | ok j => simp
  | error e => simp

/-- R68, R71: a transaction decodes to a command exactly when it is the command's encoding. -/
theorem decodeTransaction_eq_ok_iff_encodeCommand : decodeTransaction t = .ok c ↔ encodeCommand c = t := by
  obtain ⟨cmd, a, b, idx⟩ := t
  rw [decodeTransaction_eq_ok_iff, decode_eq_ok_iff, encodeCommand, Transaction.mk.injEq]
  simp only [eq_comm]

namespace Machine

/-! ### The items of a line (R70) -/

/-- Nothing in the text separates items or starts a comment. -/
def IsItemText (w : List Char) : Prop := ∀ c ∈ w, c ≠ ' ' ∧ c ≠ ';'

theorem IsItemText.append {v w : List Char} (hv : IsItemText v) (hw : IsItemText w) : IsItemText (v ++ w) :=
  List.forall_mem_append.2 ⟨hv, hw⟩

theorem splitSpaces_eq_splitOn (line : List Char) : splitSpaces line = line.splitOn ' ' := by
  induction line with
  | nil => rfl
  | cons c rest ih =>
    have hcons : consFirst c (rest.splitOn ' ') = (rest.splitOn ' ').modifyHead (c :: ·) := by
      cases h : rest.splitOn ' ' with
      | nil => exact absurd h (List.splitOn_ne_nil _ _)
      | cons w ws => rfl
    rw [splitSpaces, ih, hcons]
    simp [List.splitOn, List.splitOnP_cons_eq_if_modifyHead]

/-- A text without a `;` stands before the comment, if there is one. -/
theorem stripComment_append {text : List Char} (h : ';' ∉ text) (rest : List Char) :
    stripComment (text ++ rest) = text ++ stripComment rest :=
  List.takeWhile_append_of_pos fun c hc => by simpa using ne_of_mem_of_not_mem hc h

/-- Texts put together with single spaces come apart into those that are not empty. -/
theorem lineItems_intercalate {items : List (List Char)} (h : ∀ w ∈ items, IsItemText w) (hne : items ≠ []) :
    lineItems ([' '].intercalate items) = items.filter fun w => !w.isEmpty := by
  rw [lineItems, splitSpaces_eq_splitOn, List.splitOn_intercalate _ (fun w hw hc => (h w hw ' ' hc).1 rfl) hne]

/-- Texts put together with single spaces hold no comment. -/
theorem semicolon_not_mem_intercalate {items : List (List Char)} (h : ∀ w ∈ items, IsItemText w) :
    ';' ∉ [' '].intercalate items := by
  induction items with
  | nil => simp
  | cons w rest ih =>
    obtain ⟨hw, hrest⟩ := List.forall_mem_cons.1 h
    have hfirst : ';' ∉ w := fun hc => (hw ';' hc).2 rfl
    by_cases hne : rest = []
    · simpa [hne] using hfirst
    · simp [List.intercalate_cons_of_ne_nil hne, hfirst, ih hrest]

/-- The items of a line, with or without a comment, are the texts that are not empty among those it was put together
from. -/
theorem lineItems_stripComment {items : List (List Char)} (h : ∀ w ∈ items, IsItemText w) (hne : items ≠ [])
    {rest : List Char} (hrest : stripComment rest = []) :
    lineItems (stripComment ([' '].intercalate items ++ rest)) = items.filter fun w => !w.isEmpty := by
  rw [stripComment_append (semicolon_not_mem_intercalate h), hrest, List.append_nil, lineItems_intercalate h hne]

/-! ### The fields of a line, written and read back (R70) -/

/-- The mnemonic of a command names it (R66, R70). -/
theorem instrNamed_mnemonic (i : Instr) : instrNamed (mnemonic i).toList = some i := (opcodeRow_statement i).2

theorem isItemText_mnemonic (i : Instr) : IsItemText (mnemonic i).toList := by
  have hall : ((mnemonic i).toList.all fun c => decide (c ≠ ' ' ∧ c ≠ ';')) = true := by cases i <;> rfl
  simpa [IsItemText] using hall

theorem mnemonic_ne_empty (i : Instr) : mnemonic i ≠ "" := by cases i <;> decide

/-- Every digit that is written, decimal or hex, can stand in an item. -/
theorem digitChar_ne_separator : ∀ n < 16, Nat.digitChar n ≠ ' ' ∧ Nat.digitChar n ≠ ';' := by decide

/-- A hex digit is read back. -/
theorem hexDigit_digitChar : ∀ n < 16, hexDigit (Nat.digitChar n) = some n := by decide

/-- The digits of a byte are hex digits. -/
theorem hexDigits_lt (x : Byte) : x.toNat / 16 < 16 ∧ x.toNat % 16 < 16 := by
  have hx := x.isLt
  omega

theorem isItemText_printByte (x : Byte) : IsItemText (printByte x) := by
  obtain ⟨hh, hl⟩ := hexDigits_lt x
  simp [IsItemText, printByte, digitChar_ne_separator _ hh, digitChar_ne_separator _ hl]

theorem isItemText_printHex (bytes : Bytes) : IsItemText (printHex bytes) := by
  induction bytes with
  | nil => exact nofun
  | cons x rest ih => exact (isItemText_printByte x).append ih

/-- The two digits written for a byte are read as that byte. -/
theorem parseHex_printByte_append (x : Byte) (text : List Char) :
    parseHex (printByte x ++ text) = (parseHex text).map (x :: ·) := by
  obtain ⟨hh, hl⟩ := hexDigits_lt x
  have hx : BitVec.ofNat 8 (16 * (x.toNat / 16) + x.toNat % 16) = x := by rw [Nat.div_add_mod]; simp
  cases h : parseHex text
  all_goals simp [printByte, parseHex, hexDigit_digitChar _ hh, hexDigit_digitChar _ hl, h, hx]

/-- Reading the hex digits of a byte string of any length gives it back (R70). -/
theorem parseHex_printHex (bytes : Bytes) : parseHex (printHex bytes) = some bytes := by
  induction bytes with
  | nil => rfl
  | cons x rest ih => rw [printHex, parseHex_printByte_append, ih]; rfl

/-- A decimal digit is read as the next digit of the number. -/
theorem parseDigits_digitChar_cons {n : Nat} (h : n < 10) (acc : Nat) (rest : List Char) :
    parseDigits acc (Nat.digitChar n :: rest) = parseDigits (10 * acc + n) rest := by
  have hchar : ∀ n < 10, 48 ≤ (Nat.digitChar n).toNat ∧ (Nat.digitChar n).toNat ≤ 57 ∧
      (Nat.digitChar n).toNat - 48 = n := by decide
  obtain ⟨hlo, hhi, hval⟩ := hchar n h
  rw [parseDigits, if_pos ⟨hlo, hhi⟩, hval]

/-- `IDX` is written as one to three decimal digits, and they are the digits of its value. -/
theorem printIdx_eq_map_digitChar (x : Byte) :
    ∃ ds : List Nat, printIdx x = ds.map Nat.digitChar ∧ ds ≠ [] ∧ (∀ d ∈ ds, d < 10) ∧
      ds.foldl (fun acc d => 10 * acc + d) 0 = x.toNat := by
  have hx := x.isLt
  simp only [printIdx]
  split_ifs
  · exact ⟨[x.toNat], rfl, nofun, by simpa, by simp⟩
  · exact ⟨[x.toNat / 10, x.toNat % 10], rfl, nofun, by simp; omega, by simp; omega⟩
  · exact ⟨[x.toNat / 100, x.toNat / 10 % 10, x.toNat % 10], rfl, nofun, by simp; omega, by simp; omega⟩

theorem isItemText_printIdx (x : Byte) : IsItemText (printIdx x) := by
  obtain ⟨ds, hprint, -, hlt, -⟩ := printIdx_eq_map_digitChar x
  rw [hprint, IsItemText, List.forall_mem_map]
  exact fun d hd => digitChar_ne_separator d (by have := hlt d hd; omega)

/-- Decimal digits are read as the number they write. -/
theorem parseDigits_map_digitChar {ds : List Nat} (h : ∀ d ∈ ds, d < 10) (acc : Nat) :
    parseDigits acc (ds.map Nat.digitChar) = some (ds.foldl (fun acc d => 10 * acc + d) acc) := by
  induction ds generalizing acc with
  | nil => rfl
  | cons d ds ih =>
    obtain ⟨hd, hds⟩ := List.forall_mem_cons.1 h
    rw [List.map_cons, parseDigits_digitChar_cons hd, ih hds, List.foldl_cons]

/-- A text with at least one character is read as the number its digits write, if that fits `IDX` (R62). -/
theorem parseIdx_of_parseDigits {text : List Char} {n : Nat} (hne : text ≠ []) (h : parseDigits 0 text = some n)
    (hn : n < 256) : parseIdx text = some (BitVec.ofNat 8 n) := by
  cases text with
  | nil => exact absurd rfl hne
  | cons c rest => simp [parseIdx, h, hn]

/-- Reading the decimal digits of `IDX` gives it back (R62, R70). -/
theorem parseIdx_printIdx (x : Byte) : parseIdx (printIdx x) = some x := by
  obtain ⟨ds, hprint, hne, hlt, hval⟩ := printIdx_eq_map_digitChar x
  have hdigits : parseDigits 0 (printIdx x) = some x.toNat := by
    rw [hprint, parseDigits_map_digitChar hlt, hval]
  rw [parseIdx_of_parseDigits (by simpa [hprint] using hne) hdigits x.isLt, BitVec.ofNat_toNat, BitVec.setWidth_eq]

/-! ### Lines (R70) -/

/-- A key stands at the front of the item that is written with it. -/
@[simp] theorem afterKey_append (key text : List Char) : afterKey key (key ++ text) = some text := by
  induction key with
  | nil => rfl
  | cons k key ih => simp [afterKey, ih]

/-- A field that is written is read by its own reader. -/
theorem parseField_written {α : Type} {key text : List Char} {absent v : α} {read : List Char → Option α}
    (h : read text = some v) (rest : List (List Char)) :
    parseField key absent read ((key ++ text) :: rest) = some (v, rest) := by
  simp [parseField, h]

/-- The three fields that `printCommand` writes. -/
def operandItems (c : Command) : List (List Char) :=
  [['A', '='] ++ printHex c.a, ['B', '='] ++ printHex c.b, ['I', 'D', 'X', '='] ++ printIdx c.idx]

/-- Operands of every value and length are read back from the fields written for them. -/
theorem parseOperands_operandItems (c : Command) : parseOperands c.instr (operandItems c) = some c := by
  simp only [parseOperands, operandItems, parseField_written (parseHex_printHex _),
    parseField_written (parseIdx_printIdx _)]

/-- The printed line is the mnemonic and the three fields with single spaces between them. -/
theorem printCommand_eq_intercalate (c : Command) :
    printCommand c = [' '].intercalate ((mnemonic c.instr).toList :: operandItems c) := by
  simp [printCommand, operandItems]

theorem isItemText_operandItems (c : Command) : ∀ w ∈ operandItems c, IsItemText w := by
  have hA : IsItemText ['A', '='] := by simp [IsItemText]
  have hB : IsItemText ['B', '='] := by simp [IsItemText]
  have hIdx : IsItemText ['I', 'D', 'X', '='] := by simp [IsItemText]
  simp only [operandItems, List.forall_mem_cons]
  exact ⟨hA.append (isItemText_printHex _), hB.append (isItemText_printHex _),
    hIdx.append (isItemText_printIdx _), nofun⟩

/-- The items of the printed line are the mnemonic and the three fields: none of them is empty or has a space in it. -/
theorem lineItems_printCommand (c : Command) :
    lineItems (stripComment (printCommand c)) = (mnemonic c.instr).toList :: operandItems c := by
  have h := lineItems_stripComment (List.forall_mem_cons.2 ⟨isItemText_mnemonic c.instr, isItemText_operandItems c⟩)
    (List.cons_ne_nil _ _) (rest := []) rfl
  rw [List.append_nil, ← printCommand_eq_intercalate] at h
  rw [h]
  simp [operandItems, mnemonic_ne_empty]

/-- A line with a mnemonic, a space and a comment has the mnemonic as its only item. -/
theorem lineItems_mnemonic_comment (i : Instr) (comment : List Char) :
    lineItems (stripComment ((mnemonic i).toList ++ ' ' :: ';' :: comment)) = [(mnemonic i).toList] := by
  have h := lineItems_stripComment
    (List.forall_mem_cons.2 ⟨isItemText_mnemonic i, List.forall_mem_singleton.2 (nofun : IsItemText [])⟩)
    (List.cons_ne_nil _ _) (rest := ';' :: comment) rfl
  simpa [mnemonic_ne_empty] using h

/-- A line whose first item is a mnemonic is that command with the operands read from the other items. -/
theorem assembleLine_of_lineItems {line : List Char} {i : Instr} {items : List (List Char)}
    (h : lineItems (stripComment line) = (mnemonic i).toList :: items) :
    assembleLine line = parseOperands i items := by
  simp [assembleLine, h, instrNamed_mnemonic]

end Machine

open Machine

/-- Settles O4: the items of the printed line are the mnemonic and the three fields, and each is read back. -/
theorem assemblerReadsBackPrintedCommand : Obligations.AssemblerReadsBackPrintedCommand := by
  intro c
  calc assembleLine (printCommand c) = parseOperands c.instr (operandItems c) :=
        assembleLine_of_lineItems (lineItems_printCommand c)
    _ = some c := parseOperands_operandItems c

/-- Settles O5: the line with a comment has one item, and the example is read character by character. -/
theorem assemblerDefaultsAndExample : Obligations.AssemblerDefaultsAndExample := by
  refine ⟨fun i => ?_, rfl⟩
  rw [assembleLine_of_lineItems (lineItems_mnemonic_comment i _)]
  rfl

/-- Settles O1, by the rows of the opcode map. -/
theorem decoderIsTotalOnCommandWords : Obligations.DecoderIsTotalOnCommandWords := decode_cases

/-- Settles O2: the 18 words are the opcodes of their commands, and the ranges of R67 hold no opcode. -/
theorem opcodeMapWordsDecode : Obligations.OpcodeMapWordsDecode :=
  ⟨by simp only [decode_eq_ok_iff, encode, and_self], fun _ h => decode_eq_error (encode_ne_of_illegalRange h)⟩

/-- Settles O3: a transaction decodes to a command exactly when it is the command's encoding. -/
theorem commandEncodingRoundTrip : Obligations.CommandEncodingRoundTrip :=
  ⟨fun _ => decodeTransaction_eq_ok_iff_encodeCommand.2 rfl, fun _ _ => decodeTransaction_eq_ok_iff_encodeCommand.1⟩

end Sys2Proof
end

section
/-! PROOFS of the family 30_encoding, on commands: the operand table (R64), the one response (R63), the unused operand
ports (R62, R68) and illegal words (R67). -/

namespace Sys2Proof.Machine

variable {i : Instr} {s t t' u u' : State} {a b : Bytes} {idx code code' : Byte} {n : Nat}

/-! ### The operand table (R64, R211, R214) -/

/-- From `s` the command that ends in `t` faults with `code`, or, where that is 0, answers a result of length `n`. -/
def FaultsOrAnswers (s : State) (code : Byte) (n : Nat) (t : State) : Prop :=
  (code ≠ 0 → t = { s with fault := code, responses := s.responses ++ [{ status := code, r := [] }] }) ∧
    (code = 0 → t.fault = 0 ∧ ∃ r, t.responses = s.responses ++ [{ status := 0, r := r }] ∧ r.length = n)

theorem FaultsOrAnswers.takeFault (c : Cause) : FaultsOrAnswers s (causeCode c) n (takeFault c s) :=
  ⟨fun _ => rfl, fun h => absurd h (causeCode_ne_none c)⟩

theorem FaultsOrAnswers.succeed {r : Bytes} (hf : t.fault = 0) (hr : t.responses = s.responses) (hn : r.length = n) :
    FaultsOrAnswers s 0 n (succeed r t) :=
  ⟨fun h => absurd rfl h, fun _ => ⟨hf, r, by rw [succeed_responses, hr], hn⟩⟩

/-- A check comes before what follows it, in the command as in the table (R214). -/
theorem FaultsOrAnswers.check {p good : Prop} [Decidable p] [Decidable good] {c : Cause} (hc : causeCode c = code')
    (hp : p ↔ ¬good) (h : good → FaultsOrAnswers s code n t) :
    FaultsOrAnswers s (if good then code else code') n (if p then Machine.takeFault c s else t) := by
  by_cases hg : good
  · rw [if_pos hg, if_neg (by simpa [hp] using hg)]; exact h hg
  · rw [if_neg hg, if_pos (hp.2 hg), ← hc]; exact .takeFault c

/-- A command that checks one operand and then answers: the component commands and CTRINC. -/
theorem FaultsOrAnswers.of_oneCheck {p good : Prop} [Decidable p] [Decidable good] {c : Cause} {r : Bytes}
    (hf : s.fault = 0) (hc : causeCode c = code) (hp : p ↔ ¬good) (hn : good → r.length = n) :
    FaultsOrAnswers s (if good then 0 else code) n (if p then Machine.takeFault c s else Machine.succeed r s) :=
  .check hc hp fun hg => .succeed hf rfl (hn hg)

/-- A command that checks the schedule, then one operand, and then answers: RKREAD, the block commands and counter
mode. -/
theorem FaultsOrAnswers.of_twoChecks {q good : Prop} [Decidable q] [Decidable good] {c : Cause} {r : Bytes}
    (hf : s.fault = 0) (hc : causeCode c = code) (hq : q ↔ ¬good) (hn : good → r.length = n) :
    FaultsOrAnswers s (if s.ksValid = true then if good then 0 else code else 2) n
      (if s.ksValid = false then Machine.takeFault .noKeySchedule s
        else if q then Machine.takeFault c s else Machine.succeed r s) :=
  .check rfl (by simp) fun _ => .of_oneCheck hf hc hq hn

/-- A command that needs no schedule faults by its operands alone (R211). -/
theorem firstFault_of_keyless (h : needsSchedule i = false) : firstFault i s = operandFault i s := by
  simp [firstFault, h]

/-- A command that needs a schedule checks its operands only when one is loaded (R214). -/
theorem firstFault_of_needsSchedule (h : needsSchedule i = true) :
    firstFault i s = if s.ksValid = true then operandFault i s else 2 := by
  cases hv : s.ksValid <;> simp [firstFault, h, hv]

/-- KSINFO has no fault of its own (R161). -/
theorem execKsinfo_faultsOrAnswers (hf : s.fault = 0) :
    ∃ t, execKsinfo s = .next t ∧ FaultsOrAnswers s 0 2 t := by
  refine ⟨_, unlessFaultHeld_clear hf, ?_⟩
  split
  · exact .succeed hf rfl rfl
  · exact .succeed hf rfl rfl

/-- With no fault held, every command faults or answers as its row of R64 says. -/
theorem exec_faultsOrAnswers (i : Instr) (hf : s.fault = 0) :
    ∃ t, exec i s = .next t ∧ FaultsOrAnswers s (firstFault i s) (resultLength i s) t := by
  cases h : needsSchedule i with
  | true =>
    rw [firstFault_of_needsSchedule h]
    cases i with
    | rkread => exact ⟨_, unlessFaultHeld_clear hf, .of_twoChecks hf rfl Nat.not_le.symm fun _ => rfl⟩
    | encblk | decblk => exact ⟨_, unlessFaultHeld_clear hf, .of_twoChecks hf rfl Iff.rfl fun _ => rfl⟩
    | ctrenc | ctrdec =>
      exact ⟨_, unlessFaultHeld_clear hf, .of_twoChecks hf rfl Iff.rfl fun _ => length_ctrXor _ _⟩
    | _ => cases h
  | false =>
    rw [firstFault_of_keyless h]
    cases i with
    | keyexpand =>
      exact ⟨_, unlessFaultHeld_clear hf, .check rfl (by simp only [ne_eq, not_or]) fun _ =>
        .succeed (by simpa using hf) (loadKey_responses _ _) rfl⟩
    | ksinfo => exact execKsinfo_faultsOrAnswers hf
    | ctrinc => exact ⟨_, unlessFaultHeld_clear hf, .of_oneCheck hf rfl Iff.rfl (length_inc128 _).trans⟩
    | xtime | sbox | invsbox | subbytes | invsubbytes | shiftrows | invshiftrows | mixcolumns | invmixcolumns =>
      exact ⟨_, unlessFaultHeld_clear hf, .of_oneCheck hf rfl Iff.rfl fun _ => rfl⟩
    | addroundkey => exact ⟨_, unlessFaultHeld_clear hf, .of_oneCheck hf rfl not_and_or.symm fun _ => rfl⟩
    | _ => cases h

/-! ### Unused operand ports (R62, R64, R68) -/

/-- The state with other values on the operand ports. -/
def replacePorts (a b : Bytes) (idx : Byte) (s : State) : State := { s with a := a, b := b, idx := idx }

/-- Two outcomes that differ in the operand ports only. -/
def SameButPorts (a b : Bytes) (idx : Byte) (x y : Host.Outcome State Fault Refusal) : Prop :=
  ∃ t, x = .next t ∧ y = .next (replacePorts a b idx t)

/-- The held-fault check does not read the operand ports (R212). -/
theorem SameButPorts.unlessFaultHeld (h : u' = replacePorts a b idx u) :
    SameButPorts a b idx (unlessFaultHeld s u) (unlessFaultHeld (replacePorts a b idx s) u') := by
  subst h
  by_cases hf : s.fault = 0
  · exact ⟨u, unlessFaultHeld_clear hf, unlessFaultHeld_clear (s := replacePorts a b idx s) hf⟩
  · exact ⟨answerHeldFault s, unlessFaultHeld_held hf, unlessFaultHeld_held (s := replacePorts a b idx s) hf⟩

/-- A command whose first check reads no port that differs, when each of its two ways reads none. -/
theorem SameButPorts.check {p : Prop} [Decidable p] (h : t' = replacePorts a b idx t)
    (h' : u' = replacePorts a b idx u) :
    SameButPorts a b idx (Machine.unlessFaultHeld s (if p then t else u))
      (Machine.unlessFaultHeld (replacePorts a b idx s) (if p then t' else u')) :=
  .unlessFaultHeld (by rw [h, h', apply_ite (replacePorts a b idx)])

/-- A command that checks the schedule and one operand, and whose checks and answer read no port that differs. -/
theorem SameButPorts.of_twoChecks {p q : Prop} [Decidable p] [Decidable q] {c c' : Cause} {r : Bytes} :
    SameButPorts a b idx
      (Machine.unlessFaultHeld s (if p then takeFault c s else if q then takeFault c' s else succeed r s))
      (Machine.unlessFaultHeld (replacePorts a b idx s)
        (if p then takeFault c (replacePorts a b idx s)
          else if q then takeFault c' (replacePorts a b idx s) else succeed r (replacePorts a b idx s))) :=
  .check rfl (by split <;> rfl)

/-- A load reads its key and no port (R159). -/
theorem loadKey_replacePorts (key : Bytes) (s : State) :
    loadKey key (replacePorts a b idx s) = replacePorts a b idx (loadKey key s) := by
  have hl : scheduleLoaded key (replacePorts a b idx s) = scheduleLoaded key s := rfl
  unfold loadKey
  rw [hl]
  split <;> rfl

/-- No command's outcome depends on a port that R64 calls unused for it. -/
theorem exec_sameButPorts (i : Instr) (ha : readsA i = true → a = s.a) (hb : readsB i = true → b = s.b)
    (hidx : readsIdx i = true → idx = s.idx) : SameButPorts a b idx (exec i s) (exec i (replacePorts a b idx s)) := by
  cases i with
  | keyexpand => cases ha rfl; exact .check rfl (congrArg (succeed []) (loadKey_replacePorts s.a s))
  | rkread => cases hidx rfl; exact .of_twoChecks
  | ksinfo => exact .check rfl rfl
  | encblk | decblk => cases ha rfl; exact .of_twoChecks
  | ctrenc | ctrdec => cases ha rfl; cases hb rfl; exact .of_twoChecks
  | ctrinc | xtime | sbox | invsbox | subbytes | invsubbytes | shiftrows | invshiftrows | mixcolumns | invmixcolumns =>
    cases ha rfl; exact .check rfl rfl
  | addroundkey => cases ha rfl; cases hb rfl; exact .check rfl rfl

end Sys2Proof.Machine

namespace Sys2Proof

open Machine

/-- Settles O13: every command goes through its checks in the order of R214 and faults at the first that fails. -/
theorem operandTableDecidesFaultOrResult : Obligations.OperandTableDecidesFaultOrResult := by
  intro i s hf
  obtain ⟨t, hexec, hfaults, hanswers⟩ := exec_faultsOrAnswers i hf
  refine ⟨fun h => ?_, fun h => ?_⟩
  · rw [FaultsWith, hexec, ← hfaults h]
  · obtain ⟨hf, r, hr, hlen⟩ := hanswers h
    exact ⟨t, r, hexec, hf, hr, hlen⟩

/-- Settles O14, by the four ways a command can end. -/
theorem everyCommandGivesOneResponse : Obligations.EveryCommandGivesOneResponse := by
  intro s t h
  obtain ⟨i, he⟩ := runPresented_ends s
  rw [h] at he
  cases he with
  | held => exact ⟨[], rfl, fun _ => rfl⟩
  | faults => exact ⟨[], rfl, fun _ => rfl⟩
  | answers hf _ r => exact ⟨r, by simp [hf], fun hne => absurd hf hne⟩
  | loads hf => exact ⟨[], by simp [hf], fun _ => rfl⟩

/-- Settles O16: the command's checks and its answer read the ports of its row only. -/
theorem unusedOperandsAreIgnored : Obligations.UnusedOperandsAreIgnored :=
  fun i _ _ _ _ => exec_sameButPorts i

/-- Settles O8: the word is no opcode, so the step takes the fault of code 1 on the presented ports. -/
theorem illegalCommandFaultsAndChangesNothingElse : Obligations.IllegalCommandFaultsAndChangesNothingElse := by
  refine ⟨fun s t rest hp hf hcmd => ?_, by decide +kernel⟩
  have hdecode : decode (present t rest s).cmd = .error (.illegalCommand t.cmd) :=
    decode_eq_error (encode_ne_of_illegalRange hcmd)
  calc step s = runPresented (present t rest s) := step_command hp
    _ = execIllegal (present t rest s) := runPresented_error hdecode
    _ = .next (takeFault .illegalCommand (present t rest s)) := unlessFaultHeld_clear hf

end Sys2Proof
end

section
/-! PROOFS of the family 40_tables_gf: doubling and the product in GF(2^8) (R100, R101), the three ROMs (R102 to R106) and
the one-byte commands (R107 to R109). -/

namespace Sys2Proof.Machine

/-! ### Doubling (R100, R101) -/

/-- The two reductions cancel when bit 7 of both bytes is set, and one is left when it is set in one. -/
theorem xtime_xor (a b : Byte) : xtime (a ^^^ b) = xtime a ^^^ xtime b := by
  simp only [xtime, BitVec.getLsbD_xor, BitVec.shiftLeft_xor_distrib]
  cases a.getLsbD 7 <;> cases b.getLsbD 7
  · rfl
  · exact BitVec.xor_assoc _ _ _
  · simp only [Bool.xor_false, if_true, Bool.false_eq_true, if_false]; ac_rfl
  · simp [BitVec.xor_assoc]

/-- Doubling has no kernel. -/
theorem eq_zero_of_xtime_eq_zero : ∀ a : Byte, xtime a = 0 → a = 0 := by decide

/-- A linear map with no kernel is injective, and on bytes an injection is a bijection. -/
theorem xtime_bijective : Function.Bijective xtime := by
  refine Finite.injective_iff_bijective.mp fun a b hab => ?_
  have hsum : xtime (a ^^^ b) = 0 := by rw [xtime_xor, hab, BitVec.xor_self]; rfl
  exact BitVec.xor_eq_zero_iff.mp (eq_zero_of_xtime_eq_zero _ hsum)

/-! ### The product (R101) -/

section Product

variable {h : Byte → Byte}

/-- What bit `i` of the second factor adds to the product. -/
def gmulStep (a b acc : Byte) (i : Nat) : Byte := if b.getLsbD i then acc ^^^ xtimeN i a else acc

theorem gmul_eq_foldl (a b : Byte) : gmul a b = (List.range 8).foldl (gmulStep a b) 0 := rfl

/-- A map that commutes with doubling commutes with every power of it. -/
theorem map_xtimeN (hx : ∀ a, h (xtime a) = xtime (h a)) (n : Nat) (a : Byte) : h (xtimeN n a) = xtimeN n (h a) := by
  induction n with
  | zero => rfl
  | succ n ih => simp only [xtimeN, hx, ih]

theorem xtimeN_xor (n : Nat) (a b : Byte) : xtimeN n (a ^^^ b) = xtimeN n a ^^^ xtimeN n b := by
  induction n with
  | zero => rfl
  | succ n ih => simp only [xtimeN, ih, xtime_xor]

/-- A linear map that commutes with doubling passes through the product: `gmul a b` is made of XOR and doublings of `a`. -/
theorem map_gmul (hadd : ∀ a b, h (a ^^^ b) = h a ^^^ h b) (hx : ∀ a, h (xtime a) = xtime (h a)) (a b : Byte) :
    h (gmul a b) = gmul (h a) b := by
  have h0 : h 0 = 0 := by simpa using hadd 0 0
  have hstep (acc : Byte) (i : Nat) : gmulStep (h a) b (h acc) i = h (gmulStep a b acc i) := by
    unfold gmulStep
    split
    · rw [hadd, map_xtimeN hx]
    · rfl
  rw [gmul_eq_foldl, gmul_eq_foldl, ← List.foldl_hom h hstep, h0]

theorem gmul_xor_left (a b c : Byte) : gmul (a ^^^ b) c = gmul a c ^^^ gmul b c := by
  have hstep (x y : Byte) (i : Nat) : gmulStep a c x i ^^^ gmulStep b c y i = gmulStep (a ^^^ b) c (x ^^^ y) i := by
    unfold gmulStep
    split
    · rw [xtimeN_xor]; ac_rfl
    · rfl
  exact List.foldl_hom₂ (List.range 8) (· ^^^ ·) (gmulStep a c) (gmulStep b c) (gmulStep (a ^^^ b) c) 0 0 hstep

/-- The products by two bytes, being linear and made of doublings, commute. -/
theorem gmul_right_comm (a b c : Byte) : gmul (gmul a b) c = gmul (gmul a c) b :=
  map_gmul (h := (gmul · c)) (fun x y => gmul_xor_left x y c) (fun x => (map_gmul xtime_xor (fun _ => rfl) x c).symm) a b

/-- `0x01` is the unit of the product. -/
theorem one_gmul : ∀ b : Byte, gmul 0x01 b = b := by decide

theorem gmul_four (a : Byte) : gmul a 0x04 = xtime (xtime a) := BitVec.zero_xor

end Product

/-! ### Inverses and the S-box ROM (R102, R103) -/

/-- A byte has at most one inverse: `b = 1 * b = (x * c) * b = (x * b) * c = 1 * c = c`. -/
theorem isGfInverse_unique {x b c : Byte} (hb : isGfInverse x b = true) (hc : isGfInverse x c = true) : b = c := by
  by_cases hx : x = 0x00
  · simp only [isGfInverse, hx, if_true, beq_iff_eq] at hb hc
    rw [hb, hc]
  · simp only [isGfInverse, hx, if_false, beq_iff_eq] at hb hc
    calc b = gmul (gmul x c) b := by rw [hc, one_gmul]
      _ = gmul (gmul x b) c := gmul_right_comm x c b
      _ = c := by rw [hb, one_gmul]

/-- The affine map of R103 taken back: `sboxAffine_sboxAffineInverse`. -/
def sboxAffineInverse (y : Byte) : Byte := y.rotateLeft 1 ^^^ y.rotateLeft 3 ^^^ y.rotateLeft 6 ^^^ 0x05

theorem sboxAffine_sboxAffineInverse : ∀ y : Byte, sboxAffine (sboxAffineInverse y) = y := by decide

/-- The byte the affine map is taken back to from `SBOX[x]` is the inverse of `x`, on all 256 entries of the ROM (R103). -/
theorem isGfInverse_sboxAffineInverse_sbox : ∀ x : Byte, isGfInverse x (sboxAffineInverse (sbox x)) = true := by
  decide

theorem sbox_eq_sboxAffine {x b : Byte} (hb : isGfInverse x b = true) : sbox x = sboxAffine b := by
  rw [isGfInverse_unique hb (isGfInverse_sboxAffineInverse_sbox x), sboxAffine_sboxAffineInverse]

theorem sbox_ne_self_and_ne_complement : ∀ x : Byte, sbox x ≠ x ∧ sbox x ≠ x ^^^ 0xFF := by decide

/-! ### The inverse S-box ROM (R104, R105) -/

theorem invSbox_sbox : Function.LeftInverse invSbox sbox := by
  unfold Function.LeftInverse
  decide

/-- A left inverse on the finite type of bytes is a right inverse. -/
theorem sbox_invSbox : Function.RightInverse invSbox sbox := invSbox_sbox.rightInverse_of_card_le le_rfl

end Sys2Proof.Machine

namespace Sys2Proof

open Machine

/-- Settles O19: doubling is linear with no kernel, and the product is a sum of doublings of its first factor. -/
theorem xtimeLaws : Obligations.XtimeLaws :=
  ⟨xtime_xor, xtime_bijective, ⟨rfl, rfl, rfl⟩, fun a => (gmul_four a).symm, gmul_xor_left⟩

/-- Settles O20: the affine map taken back from the ROM is an inverse of each byte, and inverses are unique. -/
theorem sboxRomIsTheAlgebraicSbox : Obligations.SboxRomIsTheAlgebraicSbox :=
  ⟨fun x => ⟨_, isGfInverse_sboxAffineInverse_sbox x⟩, fun _ _ => sbox_eq_sboxAffine, sbox_ne_self_and_ne_complement⟩

/-- Settles O18: on numbers the mask is reduction modulo 256, and it leaves `0x1B` as it is. -/
theorem xtimeIsDoublingWithReduction : Obligations.XtimeIsDoublingWithReduction := by
  intro a
  have hmask (n : Nat) : n &&& 0xFF = n % 2 ^ 8 := Nat.and_two_pow_sub_one_eq_mod n 8
  unfold xtime
  split
  · rw [Nat.and_xor_distrib_right, hmask, BitVec.toNat_xor, BitVec.toNat_shiftLeft, Nat.shiftLeft_eq]; rfl
  · rw [hmask, BitVec.toNat_shiftLeft, Nat.shiftLeft_eq]

/-- Settles O21: INV_SBOX undoes SBOX on all 256 entries, and an undone map on a finite type is a permutation. -/
theorem inverseSboxLaw : Obligations.InverseSboxLaw := ⟨invSbox_sbox, sbox_invSbox⟩

/-- Settles O22: each of the nine steps of the recurrence, read off the ROM. -/
theorem roundConstants : Obligations.RoundConstants := by
  refine ⟨by decide, fun i h1 h10 => ?_⟩
  interval_cases i <;> rfl

/-- Settles O24: the three commands are the one-byte template, which succeeds on one byte and faults on any other length. -/
theorem byteCommandsAnswerTheirFunction : Obligations.ByteCommandsAnswerTheirFunction := by
  refine fun s hf => ⟨fun x ha => ⟨?_, ?_, ?_⟩, fun ha => ⟨?_, ?_, ?_⟩⟩
  · exact succeeds_of (byteCommand_succeeds hf ha) rfl
  · exact succeeds_of (byteCommand_succeeds hf ha) rfl
  · exact succeeds_of (byteCommand_succeeds hf ha) rfl
  · exact faultsWith_of (c := .invalidOperandLength) (byteCommand_faults hf ha)
  · exact faultsWith_of (c := .invalidOperandLength) (byteCommand_faults hf ha)
  · exact faultsWith_of (c := .invalidOperandLength) (byteCommand_faults hf ha)

end Sys2Proof
end

section
/-! PROOFS of the family 41_state_transforms: the transforms entry by entry, the laws of the two column mixes (R120 to R129)
and the commands that compute the transforms (R130 to R136). -/

namespace Sys2Proof.Machine

/-! ### Each transform, entry by entry (R120 to R127) -/

section Entries

variable (S K : Matrix) (c r : Fin 4)

@[simp] theorem get_subBytes : (subBytes S).get c r = sbox (S.get c r) := Matrix.get_ofFn _ c r

@[simp] theorem get_invSubBytes : (invSubBytes S).get c r = invSbox (S.get c r) := Matrix.get_ofFn _ c r

@[simp] theorem get_shiftRows : (shiftRows S).get c r = S.get (c + r) r := Matrix.get_ofFn _ c r

@[simp] theorem get_invShiftRows : (invShiftRows S).get c r = S.get (c - r) r := Matrix.get_ofFn _ c r

@[simp] theorem get_addRoundKey : (addRoundKey S K).get c r = S.get c r ^^^ K.get c r := Matrix.get_ofFn _ c r

@[simp] theorem col_addRoundKey : (addRoundKey S K).col c = (S.col c).xor (K.col c) :=
  Word.ext_get fun r => (get_addRoundKey S K c r).trans (Word.get_xor _ _ r).symm

@[simp] theorem col_mixColumns : (mixColumns S).col c = mixColumn (S.col c) := Matrix.col_ofCols _ c

@[simp] theorem col_invMixColumns : (invMixColumns S).col c = invMixColumn (S.col c) := Matrix.col_ofCols _ c

end Entries

/-- Two matrices are equal when they agree column by column. -/
theorem matrix_ext_col {S T : Matrix} (h : ∀ c, S.col c = T.col c) : S = T :=
  Matrix.ext_get fun c r => congrArg (Word.get · r) (h c)

/-! ### SubBytes, the row shifts and AddRoundKey (R121, R123, R127, R128) -/

section Bytewise

variable (S T K : Matrix)

theorem invSubBytes_subBytes : invSubBytes (subBytes S) = S :=
  Matrix.ext_get fun c r => by rw [get_invSubBytes, get_subBytes, invSbox_sbox]

theorem subBytes_invSubBytes : subBytes (invSubBytes S) = S :=
  Matrix.ext_get fun c r => by rw [get_subBytes, get_invSubBytes, sbox_invSbox]

theorem invShiftRows_shiftRows : invShiftRows (shiftRows S) = S :=
  Matrix.ext_get fun c r => by rw [get_invShiftRows, get_shiftRows, sub_add_cancel]

theorem shiftRows_invShiftRows : shiftRows (invShiftRows S) = S :=
  Matrix.ext_get fun c r => by rw [get_shiftRows, get_invShiftRows, add_sub_cancel_right]

theorem addRoundKey_addRoundKey : addRoundKey (addRoundKey S K) K = S :=
  Matrix.ext_get fun c r => by
    rw [get_addRoundKey, get_addRoundKey, BitVec.xor_assoc, BitVec.xor_self, BitVec.xor_zero]

theorem shiftRows_addRoundKey : shiftRows (addRoundKey S T) = addRoundKey (shiftRows S) (shiftRows T) :=
  Matrix.ext_get fun c r => by simp only [get_shiftRows, get_addRoundKey]

theorem invShiftRows_addRoundKey : invShiftRows (addRoundKey S T) = addRoundKey (invShiftRows S) (invShiftRows T) :=
  Matrix.ext_get fun c r => by simp only [get_invShiftRows, get_addRoundKey]

theorem subBytes_shiftRows : subBytes (shiftRows S) = shiftRows (subBytes S) :=
  Matrix.ext_get fun c r => by simp only [get_subBytes, get_shiftRows]

theorem subBytes_invShiftRows : subBytes (invShiftRows S) = invShiftRows (subBytes S) :=
  Matrix.ext_get fun c r => by simp only [get_subBytes, get_invShiftRows]

theorem invSubBytes_shiftRows : invSubBytes (shiftRows S) = shiftRows (invSubBytes S) :=
  Matrix.ext_get fun c r => by simp only [get_invSubBytes, get_shiftRows]

theorem invSubBytes_invShiftRows : invSubBytes (invShiftRows S) = invShiftRows (invSubBytes S) :=
  Matrix.ext_get fun c r => by simp only [get_invSubBytes, get_invShiftRows]

end Bytewise

/-! ### Products by the matrix coefficients, as sums of doublings (R101, R129) -/

section Coefficients

variable (a : Byte)

theorem gmul_02 : gmul a 0x02 = xtime a := BitVec.zero_xor

theorem gmul_03 : gmul a 0x03 = a ^^^ xtime a := congrArg (· ^^^ xtime a) BitVec.zero_xor

theorem gmul_09 : gmul a 0x09 = a ^^^ xtime (xtime (xtime a)) := congrArg (· ^^^ _) BitVec.zero_xor

theorem gmul_0B : gmul a 0x0B = a ^^^ xtime a ^^^ xtime (xtime (xtime a)) :=
  congrArg (· ^^^ _ ^^^ _) BitVec.zero_xor

theorem gmul_0D : gmul a 0x0D = a ^^^ xtime (xtime a) ^^^ xtime (xtime (xtime a)) :=
  congrArg (· ^^^ _ ^^^ _) BitVec.zero_xor

theorem gmul_0E : gmul a 0x0E = xtime a ^^^ xtime (xtime a) ^^^ xtime (xtime (xtime a)) :=
  congrArg (· ^^^ _ ^^^ _) BitVec.zero_xor

end Coefficients

/-! ### MixColumn (R124, R128, R129) -/

section MixColumn

variable (v w : Word) (i : Fin 4)

/-! Rows are numbered modulo 4. -/

theorem row_one_one : i + 1 + 1 = i + 2 := add_assoc i 1 1

theorem row_one_two : i + 1 + 2 = i + 3 := add_assoc i 1 2

theorem row_two_two : i + 2 + 2 = i := (add_assoc i 2 2).trans (add_zero i)

/-- Two bytes that each take the same XOR keep their own. -/
theorem xor_xor_xor_cancel (a b t : Byte) : a ^^^ t ^^^ (b ^^^ t) = a ^^^ b := by
  rw [BitVec.xor_comm b, BitVec.xor_assoc, Byte.xor_cancel_left]

/-- The byte `t` of R124, the XOR of a column's bytes. -/
def columnXor (w : Word) : Byte := w.get 0 ^^^ w.get 1 ^^^ w.get 2 ^^^ w.get 3

/-- The four lines of R124 are one formula, indices modulo 4. -/
theorem get_mixColumn : (mixColumn w).get i = w.get i ^^^ columnXor w ^^^ xtime (w.get i ^^^ w.get (i + 1)) := by
  fin_cases i <;> rfl

/-- The XOR of a column's bytes may start at any row. -/
theorem columnXor_eq : columnXor w = w.get i ^^^ (w.get (i + 1) ^^^ w.get (i + 2) ^^^ w.get (i + 3)) := by
  change w.b0 ^^^ w.b1 ^^^ w.b2 ^^^ w.b3 = _
  fin_cases i
  · change _ = w.b0 ^^^ (w.b1 ^^^ w.b2 ^^^ w.b3); ac_rfl
  · change _ = w.b1 ^^^ (w.b2 ^^^ w.b3 ^^^ w.b0); ac_rfl
  · change _ = w.b2 ^^^ (w.b3 ^^^ w.b0 ^^^ w.b1); ac_rfl
  · change _ = w.b3 ^^^ (w.b0 ^^^ w.b1 ^^^ w.b2); ac_rfl

/-- Byte `i` of R124 without the byte that its two XORs cancel. -/
theorem get_mixColumn_eq :
    (mixColumn w).get i =
      w.get (i + 1) ^^^ w.get (i + 2) ^^^ w.get (i + 3) ^^^ (xtime (w.get i) ^^^ xtime (w.get (i + 1))) := by
  rw [get_mixColumn, columnXor_eq w i, Byte.xor_cancel_left, xtime_xor]

theorem get_mixColumn_matrix :
    (mixColumn w).get i = gmul (w.get i) 0x02 ^^^ gmul (w.get (i + 1)) 0x03 ^^^ w.get (i + 2) ^^^ w.get (i + 3) := by
  rw [get_mixColumn_eq, gmul_02, gmul_03]; ac_rfl

theorem mixColumn_xor : mixColumn (v.xor w) = (mixColumn v).xor (mixColumn w) :=
  Word.ext_get fun i => by simp only [Word.get_xor, get_mixColumn_eq, xtime_xor]; ac_rfl

theorem mixColumn_const (x : Byte) : mixColumn ⟨x, x, x, x⟩ = ⟨x, x, x, x⟩ := by
  have hx0 : xtime 0#8 = 0#8 := rfl
  simp [mixColumn, hx0]

/-! ### InvMixColumn is MixColumn three times (R126, R128) -/

/-- The pre-pass of R126: `u` goes to the even rows and `v` to the odd ones, so row `i` takes the XOR of the rows `i` and
`i + 2`, doubled twice. -/
def invMixPrePass (w : Word) : Word := Word.ofFn fun i => w.get i ^^^ xtime (xtime (w.get i ^^^ w.get (i + 2)))

@[simp] theorem get_invMixPrePass :
    (invMixPrePass w).get i = w.get i ^^^ xtime (xtime (w.get i ^^^ w.get (i + 2))) := Word.get_ofFn _ i

theorem invMixColumn_eq_mixColumn_prePass : invMixColumn w = mixColumn (invMixPrePass w) := by
  have h20 : w.b2 ^^^ w.b0 = w.b0 ^^^ w.b2 := BitVec.xor_comm _ _
  have h31 : w.b3 ^^^ w.b1 = w.b1 ^^^ w.b3 := BitVec.xor_comm _ _
  simp [invMixColumn, invMixPrePass, Word.ofFn, Word.get, h20, h31]

/-- In the XOR of two neighbouring rows `t` cancels, and so does the byte that is doubled in both. -/
theorem get_mixColumn_xor_next :
    (mixColumn w).get i ^^^ (mixColumn w).get (i + 1) =
      w.get i ^^^ w.get (i + 1) ^^^ xtime (w.get i ^^^ w.get (i + 2)) := by
  have hdouble : xtime (w.get i ^^^ w.get (i + 1)) ^^^ xtime (w.get (i + 1) ^^^ w.get (i + 2)) =
      xtime (w.get i ^^^ w.get (i + 2)) := by
    rw [← xtime_xor, BitVec.xor_comm (w.get (i + 1)) (w.get (i + 2)), xor_xor_xor_cancel]
  have hcancel (a b t u v : Byte) : a ^^^ t ^^^ u ^^^ (b ^^^ t ^^^ v) = a ^^^ b ^^^ (u ^^^ v) :=
    calc a ^^^ t ^^^ u ^^^ (b ^^^ t ^^^ v) = a ^^^ t ^^^ (b ^^^ t) ^^^ (u ^^^ v) := by ac_rfl
      _ = a ^^^ b ^^^ (u ^^^ v) := by rw [xor_xor_xor_cancel]
  rw [get_mixColumn, get_mixColumn, row_one_one, hcancel, hdouble]

/-- MixColumn keeps the XOR of the column's bytes. -/
theorem columnXor_mixColumn : columnXor (mixColumn w) = columnXor w := by
  have h01 : (mixColumn w).get 0 ^^^ (mixColumn w).get 1 = w.get 0 ^^^ w.get 1 ^^^ xtime (w.get 0 ^^^ w.get 2) :=
    get_mixColumn_xor_next w 0
  have h23 : (mixColumn w).get 2 ^^^ (mixColumn w).get 3 = w.get 2 ^^^ w.get 3 ^^^ xtime (w.get 0 ^^^ w.get 2) := by
    rw [BitVec.xor_comm (w.get 0)]; exact get_mixColumn_xor_next w 2
  rw [columnXor, BitVec.xor_assoc, h01, h23, xor_xor_xor_cancel, ← BitVec.xor_assoc, columnXor]

/-- MixColumn twice is the pre-pass: `t` cancels, and so do the single doublings. -/
theorem mixColumn_mixColumn : mixColumn (mixColumn w) = invMixPrePass w :=
  Word.ext_get fun i => by
    have hcancel (a t u v : Byte) : a ^^^ t ^^^ u ^^^ t ^^^ (u ^^^ v) = a ^^^ v :=
      calc a ^^^ t ^^^ u ^^^ t ^^^ (u ^^^ v) = a ^^^ (t ^^^ u) ^^^ (v ^^^ (t ^^^ u)) := by ac_rfl
        _ = a ^^^ v := xor_xor_xor_cancel _ _ _
    rw [get_mixColumn (mixColumn w), columnXor_mixColumn, get_mixColumn_xor_next, xtime_xor (w.get i ^^^ w.get (i + 1)),
      get_mixColumn, hcancel, get_invMixPrePass]

/-- The pre-pass adds one byte to the rows `i` and `i + 2`, which leaves their XOR as it is. -/
theorem get_invMixPrePass_xor :
    (invMixPrePass w).get i ^^^ (invMixPrePass w).get (i + 2) = w.get i ^^^ w.get (i + 2) := by
  rw [get_invMixPrePass, get_invMixPrePass, row_two_two, BitVec.xor_comm (w.get (i + 2)) (w.get i),
    xor_xor_xor_cancel]

theorem invMixPrePass_invMixPrePass : invMixPrePass (invMixPrePass w) = w :=
  Word.ext_get fun i => by
    rw [get_invMixPrePass, get_invMixPrePass_xor, get_invMixPrePass, BitVec.xor_assoc, BitVec.xor_self, BitVec.xor_zero]

theorem invMixColumn_eq : invMixColumn w = mixColumn (mixColumn (mixColumn w)) := by
  rw [mixColumn_mixColumn w, invMixColumn_eq_mixColumn_prePass]

/-- The fourth power of MixColumn is the identity. -/
theorem mixColumn_four_times : mixColumn (mixColumn (mixColumn (mixColumn w))) = w := by
  rw [mixColumn_mixColumn, mixColumn_mixColumn, invMixPrePass_invMixPrePass]

theorem invMixColumn_const (x : Byte) : invMixColumn ⟨x, x, x, x⟩ = ⟨x, x, x, x⟩ := by
  simp only [invMixColumn_eq, mixColumn_const]

theorem get_invMixColumn_matrix :
    (invMixColumn w).get i =
      gmul (w.get i) 0x0E ^^^ gmul (w.get (i + 1)) 0x0B ^^^ gmul (w.get (i + 2)) 0x0D ^^^ gmul (w.get (i + 3)) 0x09 := by
  have hodd : (invMixPrePass w).get (i + 1) ^^^ (invMixPrePass w).get (i + 2) ^^^ (invMixPrePass w).get (i + 3) =
      w.get (i + 1) ^^^ w.get (i + 3) ^^^ (invMixPrePass w).get (i + 2) := by
    have hsum := get_invMixPrePass_xor w (i + 1)
    rw [row_one_two] at hsum
    rw [← hsum]; ac_rfl
  rw [invMixColumn_eq_mixColumn_prePass, get_mixColumn_eq, hodd, gmul_0E, gmul_0B, gmul_0D, gmul_09]
  simp only [get_invMixPrePass, xtime_xor, row_one_two, row_two_two]
  ac_rfl

end MixColumn

/-! ### MixColumns and InvMixColumns (R125, R126, R128) -/

section MixColumns

variable (S T : Matrix)

theorem invMixColumns_eq : invMixColumns S = mixColumns (mixColumns (mixColumns S)) :=
  matrix_ext_col fun c => by simp only [col_invMixColumns, col_mixColumns, invMixColumn_eq]

theorem mixColumns_four_times : mixColumns (mixColumns (mixColumns (mixColumns S))) = S :=
  matrix_ext_col fun c => by simp only [col_mixColumns, mixColumn_four_times]

theorem invMixColumns_mixColumns : invMixColumns (mixColumns S) = S := by
  rw [invMixColumns_eq, mixColumns_four_times]

theorem mixColumns_invMixColumns : mixColumns (invMixColumns S) = S := by
  rw [invMixColumns_eq, mixColumns_four_times]

theorem mixColumns_addRoundKey : mixColumns (addRoundKey S T) = addRoundKey (mixColumns S) (mixColumns T) :=
  matrix_ext_col fun c => by simp only [col_mixColumns, col_addRoundKey, mixColumn_xor]

theorem invMixColumns_addRoundKey : invMixColumns (addRoundKey S T) = addRoundKey (invMixColumns S) (invMixColumns T) := by
  simp only [invMixColumns_eq, mixColumns_addRoundKey]

end MixColumns

/-! ### The commands (R130 to R136) -/

section Commands

variable {s : State}

theorem fromState_subBytes (S : Matrix) : fromState (subBytes S) = (fromState S).map sbox := rfl

theorem fromState_invSubBytes (S : Matrix) : fromState (invSubBytes S) = (fromState S).map invSbox := rfl

/-- Row `r` of column `c` comes from column `c + r`: byte `5 * j` of the block modulo 16 goes to byte `j` (R122). -/
theorem fromState_shiftRows (S : Matrix) :
    fromState (shiftRows S) =
      [0, 5, 10, 15, 4, 9, 14, 3, 8, 13, 2, 7, 12, 1, 6, 11].map fun j => (fromState S).getD j 0 := rfl

theorem fromState_invShiftRows (S : Matrix) :
    fromState (invShiftRows S) =
      [0, 13, 10, 7, 4, 1, 14, 11, 8, 5, 2, 15, 12, 9, 6, 3].map fun j => (fromState S).getD j 0 := rfl

theorem fromState_addRoundKey (S K : Matrix) :
    fromState (addRoundKey S K) = (List.range 16).map fun i => (fromState S).getD i 0 ^^^ (fromState K).getD i 0 := rfl

/-- Byte `4c + r` of a serialised matrix is row `r` of its column `c` (R10). -/
theorem getD_fromState (S : Matrix) (c r : Fin 4) : (fromState S).getD (4 * c.val + r.val) 0 = (S.col c).get r :=
  byteAt_fromState S c r

/-- Byte `4c + (j mod 4)` of a block is row `j mod 4` of its column `c` (R10). -/
theorem getD_eq_get_col (b : Bytes) (c : Fin 4) (j : Nat) :
    b.getD (4 * c.val + j % 4) 0 = ((toState b).col c).get (Fin.ofNat 4 j) :=
  (get_toState b c (Fin.ofNat 4 j)).symm

theorem addroundkey_succeeds (hf : s.fault = 0) (ha : s.a.length = 16) (hb : s.b.length = 16) :
    exec .addroundkey s = .next (succeed (fromState (addRoundKey (toState s.a) (toState s.b))) s) := by
  simp [exec, execAddroundkey, unlessFaultHeld_clear hf, ha, hb]

theorem addroundkey_faults (hf : s.fault = 0) (h : s.a.length ≠ 16 ∨ s.b.length ≠ 16) :
    exec .addroundkey s = .next (takeFault .invalidOperandLength s) := by
  rw [exec, execAddroundkey, unlessFaultHeld_clear hf, if_pos h]

end Commands

end Sys2Proof.Machine

namespace Sys2Proof

open Machine

/-- Settles O25: SubBytes and InvSubBytes of a matrix act on its string byte by byte. -/
theorem subBytesCommandsMapEachByte : Obligations.SubBytesCommandsMapEachByte := fun _ hf ha =>
  ⟨succeeds_of (matrixCommand_succeeds hf ha) (by rw [fromState_subBytes, fromState_toState ha]),
    succeeds_of (matrixCommand_succeeds hf ha) (by rw [fromState_invSubBytes, fromState_toState ha])⟩

/-- Settles O26: the two row shifts of a matrix permute its string in the listed orders. -/
theorem shiftRowsCommandsPermuteBytes : Obligations.ShiftRowsCommandsPermuteBytes := fun s hf ha =>
  ⟨succeeds_of (matrixCommand_succeeds hf ha) (by rw [fromState_shiftRows, fromState_toState ha]),
    succeeds_of (matrixCommand_succeeds hf ha) (by rw [fromState_invShiftRows, fromState_toState ha])⟩

/-- Settles O27: byte `4c+i` of the answer is row `i` of the mixed column `c`. -/
theorem mixColumnsCommandMixesEachColumn : Obligations.MixColumnsCommandMixesEachColumn := by
  refine fun s hf ha => ⟨_, succeeds_of (matrixCommand_succeeds hf ha) rfl, length_fromState _, fun c i hc hi => ?_⟩
  lift c to Fin 4 using hc
  lift i to Fin 4 using hi
  simp only [getD_fromState, col_mixColumns, getD_eq_get_col]
  rw [Fin.ofNat_val_eq_self]
  exact get_mixColumn _ i

/-- Settles O28: byte `4c+i` of the answer is row `i` of the column `c` of InvMixColumns, in its matrix form. -/
theorem invMixColumnsCommandIsTheInverseMatrix : Obligations.InvMixColumnsCommandIsTheInverseMatrix := by
  refine fun s hf ha => ⟨_, succeeds_of (matrixCommand_succeeds hf ha) rfl, length_fromState _, fun c i hc hi => ?_⟩
  lift c to Fin 4 using hc
  lift i to Fin 4 using hi
  simp only [getD_fromState, col_invMixColumns, getD_eq_get_col]
  rw [Fin.ofNat_val_eq_self]
  exact get_invMixColumn_matrix _ i

/-- Settles O29: doublings are linear, and the matrix coefficients are sums of doublings. -/
theorem columnFunctionsEqualMatrixForms : Obligations.ColumnFunctionsEqualMatrixForms := fun w i =>
  ⟨get_mixColumn_matrix w i, get_invMixColumn_matrix w i⟩

/-- Settles O30: the answer is the XOR of the two strings, the second XOR with `B` undoes the first, and either wrong length
gives the one fault. -/
theorem addRoundKeyCommandXorsTheOperands : Obligations.AddRoundKeyCommandXorsTheOperands := by
  refine fun s hf => ⟨fun ha hb => ?_, fun h => faultsWith_of (c := .invalidOperandLength) (addroundkey_faults hf h)⟩
  intro r
  have hr : fromState (addRoundKey (toState s.a) (toState s.b)) = r := by
    rw [fromState_addRoundKey, fromState_toState ha, fromState_toState hb]
  have hundo : fromState (addRoundKey (toState r) (toState s.b)) = s.a := by
    rw [← hr, toState_fromState, addRoundKey_addRoundKey, fromState_toState ha]
  exact ⟨succeeds_of (addroundkey_succeeds hf ha hb) hr, succeeds_of (addroundkey_succeeds hf rfl hb) hundo⟩

/-- Settles O31: the S-boxes undo each other, the shifts are by opposite amounts, InvMixColumns is the third of four powers
of MixColumns, and equal bytes of an XOR cancel. -/
theorem transformsAreUndoneByTheirInverses : Obligations.TransformsAreUndoneByTheirInverses := fun S K =>
  ⟨⟨invSubBytes_subBytes S, subBytes_invSubBytes S⟩, ⟨invShiftRows_shiftRows S, shiftRows_invShiftRows S⟩,
    ⟨invMixColumns_mixColumns S, mixColumns_invMixColumns S⟩, addRoundKey_addRoundKey S K⟩

/-- Settles O32: linearity and commutation entry by entry; the fixed matrices are closed facts. -/
theorem transformLaws : Obligations.TransformLaws :=
  ⟨fun S T => ⟨mixColumns_addRoundKey S T, invMixColumns_addRoundKey S T, shiftRows_addRoundKey S T,
      invShiftRows_addRoundKey S T⟩,
    fun S => ⟨subBytes_shiftRows S, subBytes_invShiftRows S, invSubBytes_shiftRows S, invSubBytes_invShiftRows S⟩,
    fun x => ⟨mixColumn_const x, invMixColumn_const x⟩, by decide⟩

end Sys2Proof
end

section
/-! PROOFS of the family 42_key_schedule: the recurrence of ExpandKey (R150 to R156), and the commands KEYEXPAND, RKREAD
and KSINFO (R157 to R161). -/

namespace Sys2Proof.Machine

variable {keyLen n i : Nat} {v w : List Word} {key : Bytes} {s : State}

/-! ### The round-constant counter (R155, R156) -/

/-- The round-constant counter when ExpandKey comes to word `i`: one more than the multiples of Nk in `1..i-1` (R155). -/
def rcAt (keyLen i : Nat) : Nat := (i - 1) / (keyLen / 4) + 1

/-- At a multiple of Nk the counter is the multiple's number (R155, R156). -/
theorem rcAt_of_mod_eq_zero (hi : 0 < i) (h : i % (keyLen / 4) = 0) : rcAt keyLen i = i / (keyLen / 4) := by
  obtain ⟨j, rfl⟩ := Nat.exists_eq_succ_of_ne_zero hi.ne'
  exact (Nat.succ_div_of_dvd (Nat.dvd_of_mod_eq_zero h)).symm

/-- A turn of the loop keeps the counter at its closed form (R155). -/
theorem nextRc_rcAt (hi : 0 < i) : nextRc keyLen i (rcAt keyLen i) = rcAt keyLen (i + 1) := by
  obtain ⟨j, rfl⟩ := Nat.exists_eq_succ_of_ne_zero hi.ne'
  simp only [nextRc, rcAt, Nat.add_sub_cancel, Nat.succ_div, Nat.dvd_iff_mod_eq_zero]
  split <;> rfl

/-! ### The words of an expanded key (R151, R152, R155) -/

/-- What ExpandKey makes of the words `w` as word `i`: `t ^ w[i-Nk]`, where `t` comes from `w[i-1]` (R155). -/
def derivedWord (keyLen i : Nat) (w : List Word) : Word :=
  (expandTemp keyLen i (rcAt keyLen i) (w.getD (i - 1) default)).xor (w.getD (i - keyLen / 4) default)

theorem getD_of_prefix (h : w <+: v) (hi : i < w.length) : v.getD i default = w.getD i default := by
  obtain ⟨rest, rfl⟩ := h
  exact List.getD_append _ _ _ _ hi

/-- Word `i` is derived from words before it, so more words after them make no difference (R155). -/
theorem derivedWord_of_prefix (h : w <+: v) (hpos : 0 < keyLen / 4) (h0 : 0 < i) (hi : i ≤ w.length) :
    derivedWord keyLen i v = derivedWord keyLen i w := by
  rw [derivedWord, derivedWord, getD_of_prefix h (by omega), getD_of_prefix h (by omega)]

/-- A turn of the loop adds the derived word, with the counter at its closed form (R155). -/
theorem expandLoop_succ (hw : 0 < w.length) :
    expandLoop keyLen (n + 1) (rcAt keyLen w.length) w =
      expandLoop keyLen n (rcAt keyLen (w.length + 1)) (w ++ [derivedWord keyLen w.length w]) := by
  rw [← nextRc_rcAt hw]; rfl

/-- Every word the loop adds is derived from the words of its result (R155). -/
theorem getD_expandLoop (hpos : 0 < keyLen / 4) (hw : 0 < w.length) (hi : w.length ≤ i) (hn : i < w.length + n) :
    (expandLoop keyLen n (rcAt keyLen w.length) w).getD i default =
      derivedWord keyLen i (expandLoop keyLen n (rcAt keyLen w.length) w) := by
  induction n generalizing w with
  | zero => omega
  | succ n ih =>
    have hlen : (w ++ [derivedWord keyLen w.length w]).length = w.length + 1 := List.length_append
    rw [expandLoop_succ hw, ← hlen]
    obtain rfl | hlt := hi.eq_or_lt
    · have hprefix := expandLoop_prefix keyLen n (rcAt keyLen (w ++ [derivedWord keyLen w.length w]).length)
        (w ++ [derivedWord keyLen w.length w])
      rw [getD_of_prefix hprefix (by omega),
        derivedWord_of_prefix ((List.prefix_append _ _).trans hprefix) hpos hw le_rfl]
      simp
    · exact ih (by omega) (by omega) (by omega)

@[simp] theorem length_keyWords (key : Bytes) : (keyWords key).length = key.length / 4 := by simp [keyWords]

/-- The first Nk words are the key's (R151). -/
theorem getD_expandKey_of_lt (hi : i < key.length / 4) : (expandKey key).getD i default = keyWord key i := by
  rw [expandKey, getD_of_prefix (expandLoop_prefix _ _ _ _) (by rwa [length_keyWords])]
  simp [keyWords, hi]

/-- The words after the first Nk are derived from those before them (R152, R155). -/
theorem getD_expandKey_of_ge (hpos : 0 < key.length / 4) (hi : key.length / 4 ≤ i) (hn : i < expandedWords key) :
    (expandKey key).getD i default = derivedWord key.length i (expandKey key) := by
  have hlen := length_keyWords key
  have hrc : rcAt key.length (keyWords key).length = 1 := by
    rw [hlen, rcAt, Nat.div_eq_of_lt (by omega)]
  rw [expandKey, ← hrc]
  exact getD_expandLoop hpos (by omega) (by omega) (by omega)

/-! ### RKREAD (R157, R160) -/

theorem rkread_succeeds (hf : s.fault = 0) (hk : s.ksValid = true) (hi : s.idx.toNat ≤ rounds s.keyLen) :
    exec .rkread s = .next (succeed (fromState (roundKey s s.idx.toNat)) s) := by
  simp [exec, execRkread, unlessFaultHeld_clear hf, hk, hi.not_gt]

theorem rkread_badIndex (hf : s.fault = 0) (hk : s.ksValid = true) (hi : rounds s.keyLen < s.idx.toNat) :
    exec .rkread s = .next (takeFault .roundKeyIndex s) := by
  simp [exec, execRkread, unlessFaultHeld_clear hf, hk, hi]

theorem rkread_noKey (hf : s.fault = 0) (hk : s.ksValid = false) :
    exec .rkread s = .next (takeFault .noKeySchedule s) := by
  simp [exec, execRkread, unlessFaultHeld_clear hf, hk]

/-- A round key is serialised word by word (R24, R160). -/
theorem fromState_roundKey (s : State) (k : Nat) :
    fromState (roundKey s k) =
      (ksWord s (4 * k)).toBytes ++ (ksWord s (4 * k + 1)).toBytes ++ (ksWord s (4 * k + 2)).toBytes ++
        (ksWord s (4 * k + 3)).toBytes := rfl

/-- Round key 0 of a loaded key is the key's first block: its four words come straight from the key (R151). -/
theorem roundKey_zero_loadKey (ha : key.length = 16 ∨ key.length = 24 ∨ key.length = 32) (s : State) :
    roundKey (loadKey key s) 0 = toState (key.take 16) := by
  obtain ⟨-, -, hwords⟩ := loadKey_loaded key s
  refine Matrix.ext_get fun c r => ?_
  have hc : c.val < key.length / 4 := by omega
  have hread : ksWord (loadKey key s) c.val = keyWord key c.val := by
    rw [hwords _ (by rw [expandedWords_eq ha]; omega), getD_expandKey_of_lt hc]
  have htake : byteAt (key.take 16) (4 * c.val + r.val) = byteAt key (4 * c.val + r.val) := by
    rw [byteAt, byteAt, List.getD_eq_getElem?_getD, List.getElem?_take_of_lt (by omega), List.getD_eq_getElem?_getD]
  rw [roundKey_get, get_toState, htake, Nat.mul_zero, Nat.zero_add, hread]
  exact Word.get_ofFn _ r

/-! ### KSINFO (R161) -/

theorem ksinfo_loaded {keyLen : Byte} (hf : s.fault = 0) (hk : s.ksValid = true) (hl : s.keyLen = keyLen) :
    exec .ksinfo s = .next (succeed [BitVec.ofNat 8 (rounds keyLen + 1), keyLen] s) := by
  simp [exec, execKsinfo, unlessFaultHeld_clear hf, hk, hl]

theorem ksinfo_noKey (hf : s.fault = 0) (hk : s.ksValid = false) :
    exec .ksinfo s = .next (succeed [0x00, 0x00] s) := by
  simp [exec, execKsinfo, unlessFaultHeld_clear hf, hk]

end Sys2Proof.Machine

namespace Sys2Proof

open Machine

/-- Settles O33: the words the loop is given stay, and a word it adds is derived from the words of the result, with the
round-constant counter in its closed form. -/
theorem expandedKeyObeysTheRecurrence : Obligations.ExpandedKeyObeysTheRecurrence := by
  intro key nk nr hlen hsize w
  have hkey : key.length = 16 ∨ key.length = 24 ∨ key.length = 32 := by omega
  have hnk : key.length / 4 = nk := by omega
  have hwords : expandedWords key = 4 * (nr + 1) := by rw [expandedWords_eq hkey]; omega
  refine ⟨(length_expandKey hkey).trans hwords, fun i hi => getD_expandKey_of_lt (hnk ▸ hi), fun i hi hlt => ?_⟩
  have hderived : w i = (expandTemp key.length i (rcAt key.length i) (w (i - 1))).xor (w (i - nk)) := by
    have h := getD_expandKey_of_ge (by omega) (hnk.trans_le hi) (hlt.trans_eq hwords.symm)
    rwa [derivedWord, hnk] at h
  have hsub : (key.length = 32 ∧ i % nk = 4) ↔ (nk = 8 ∧ i % nk = 4) := by omega
  rw [expandTemp, hnk] at hderived
  refine ⟨fun h0 => ?_, fun h0 h4 => ?_, fun h0 h4 => ?_⟩
  · have hrc : rcAt key.length i = i / nk := by
      rw [rcAt_of_mod_eq_zero (by omega) (by rwa [hnk]), hnk]
    rw [if_pos h0, hrc] at hderived
    obtain ⟨hone, hten⟩ : 1 ≤ i / nk ∧ i / nk ≤ 10 := by
      obtain ⟨rfl, rfl⟩ | ⟨rfl, rfl⟩ | ⟨rfl, rfl⟩ := hsize <;> omega
    exact ⟨hone, hten, hderived⟩
  · rwa [if_neg h0, if_pos (hsub.2 h4)] at hderived
  · rwa [if_neg h0, if_neg (mt hsub.1 h4)] at hderived

/-- Settles O35: what a load makes of the schedule, and its frame, read through the response. -/
theorem keyExpandLoadsTheSchedule : Obligations.KeyExpandLoadsTheSchedule := by
  intro s hf ha
  obtain ⟨hvalid, hlen, hwords⟩ := loadKey_loaded s.a s
  refine ⟨_, execKeyexpand_succeeds hf ha, hvalid, ?_, ?_, ?_⟩
  · rw [succeed_keyLen, hlen, lengthByte_toNat ha]
  · rw [succeed_keyLen, hlen]; exact hwords
  · rw [succeed_keyLen, hlen]; exact congrArg (succeed []) (loadKey_frame s.a s)

/-- Settles O39: round key 0 of the loaded key is its first block, and index 0 is no round key too many. -/
theorem roundKeyZeroIsTheMasterKey : Obligations.RoundKeyZeroIsTheMasterKey := by
  intro s t hf ha h
  cases (execKeyexpand_succeeds hf ha).symm.trans h
  refine succeeds_of (rkread_succeeds (by simpa using hf) (by simp) (Nat.zero_le _)) ?_
  calc fromState (roundKey (loadKey s.a s) 0) = fromState (toState (s.a.take 16)) := by rw [roundKey_zero_loadKey ha]
    _ = s.a.take 16 := fromState_toState (by rw [List.length_take]; omega)

/-- Settles O34: each operation is written out byte by byte in the model. -/
theorem keyWordOperations : Obligations.KeyWordOperations := fun _ _ _ _ => ⟨rfl, rfl, fun _ => rfl⟩

/-- Settles O36: the length check is the first after the held-fault check. -/
theorem keyExpandRejectsOtherLengths : Obligations.KeyExpandRejectsOtherLengths := fun _ hf h16 h24 h32 =>
  faultsWith_of (c := .invalidKeyLength) (execKeyexpand_faults hf h16 h24 h32)

/-- Settles O38: one clause for each way RKREAD can end. -/
theorem roundKeyReadAnswersFourWords : Obligations.RoundKeyReadAnswersFourWords := fun s hf =>
  ⟨fun hk hi => succeeds_of (rkread_succeeds hf hk hi) (fromState_roundKey s _),
    fun hk hi => faultsWith_of (c := .roundKeyIndex) (rkread_badIndex hf hk hi),
    fun hk => faultsWith_of (c := .noKeySchedule) (rkread_noKey hf hk)⟩

/-- Settles O40: the round counts of the three key lengths. -/
theorem scheduleInfoAnswersLengths : Obligations.ScheduleInfoAnswersLengths := fun _ hf =>
  ⟨fun hk hl => succeeds_of (ksinfo_loaded hf hk hl) rfl,
    fun hk hl => succeeds_of (ksinfo_loaded hf hk hl) rfl,
    fun hk hl => succeeds_of (ksinfo_loaded hf hk hl) rfl,
    fun hk => succeeds_of (ksinfo_noKey hf hk) rfl⟩

end Sys2Proof
end

section
/-! PROOFS of the family 43_block_cipher: the rounds of EncryptBlock and DecryptBlock (R171, R174), each undoing the other
(R176), and the commands ENCBLK and DECBLK (R172, R175). -/

namespace Sys2Proof.Machine

/-! ### The middle rounds as folds over the round numbers (R171, R174) -/

section Rounds

variable (rk : Nat → Matrix) (n nr : Nat) (K S : Matrix)

theorem encryptRounds_eq_foldl :
    encryptRounds rk n S = (List.range' 1 n).foldl (fun S k => encryptRound (rk k) S) S := by
  induction n with
  | zero => rfl
  | succ n ih => rw [encryptRounds, ih, List.range'_1_concat, List.foldl_concat, Nat.add_comm 1 n]

theorem decryptRounds_eq_foldl :
    decryptRounds rk n S = (List.range' 1 n).reverse.foldl (fun S k => decryptRound (rk k) S) S := by
  induction n generalizing S with
  | zero => rfl
  | succ n ih => rw [decryptRounds, ih, List.range'_1_concat, List.reverse_concat, List.foldl_cons, Nat.add_comm 1 n]

/-! ### Encryption and decryption undo each other (R176) -/

/-- The steps of a middle round are undone last step first, with the same round key (R174). -/
theorem decryptRound_encryptRound : decryptRound K (encryptRound K S) = S := by
  rw [decryptRound, encryptRound, addRoundKey_addRoundKey, invMixColumns_mixColumns, invShiftRows_shiftRows,
    invSubBytes_subBytes]

theorem encryptRound_decryptRound : encryptRound K (decryptRound K S) = S := by
  rw [encryptRound, decryptRound, subBytes_invSubBytes, shiftRows_invShiftRows, mixColumns_invMixColumns,
    addRoundKey_addRoundKey]

theorem decryptRounds_encryptRounds : decryptRounds rk n (encryptRounds rk n S) = S := by
  induction n with
  | zero => rfl
  | succ n ih => rw [decryptRounds, encryptRounds, decryptRound_encryptRound, ih]

theorem encryptRounds_decryptRounds : encryptRounds rk n (decryptRounds rk n S) = S := by
  induction n generalizing S with
  | zero => rfl
  | succ n ih => rw [encryptRounds, decryptRounds, ih, encryptRound_decryptRound]

theorem decryptMatrix_encryptMatrix : decryptMatrix rk nr (encryptMatrix rk nr S) = S := by
  rw [decryptMatrix, encryptMatrix, addRoundKey_addRoundKey, invShiftRows_shiftRows, invSubBytes_subBytes,
    decryptRounds_encryptRounds, addRoundKey_addRoundKey]

theorem encryptMatrix_decryptMatrix : encryptMatrix rk nr (decryptMatrix rk nr S) = S := by
  rw [encryptMatrix, decryptMatrix, addRoundKey_addRoundKey, encryptRounds_decryptRounds, subBytes_invSubBytes,
    shiftRows_invShiftRows, addRoundKey_addRoundKey]

end Rounds

section Blocks

variable {i : Instr} {s : State} {x r r' : Bytes}

theorem decryptBlock_encryptBlock (s : State) (hx : x.length = 16) : decryptBlock s (encryptBlock s x) = x := by
  rw [decryptBlock, encryptBlock, toState_fromState, decryptMatrix_encryptMatrix, fromState_toState hx]

theorem encryptBlock_decryptBlock (s : State) (hx : x.length = 16) : encryptBlock s (decryptBlock s x) = x := by
  rw [encryptBlock, decryptBlock, toState_fromState, encryptMatrix_decryptMatrix, fromState_toState hx]

/-! ### The commands (R172, R175) -/

/-- A command that succeeds has one result: the last response of the one next state (R63). -/
theorem Succeeds.result_unique (h : Succeeds i s r) (h' : Succeeds i s r') : r = r' := by
  have hnext := h.symm.trans h'
  simpa using hnext

theorem encblk_succeeds (hf : s.fault = 0) (hk : s.ksValid = true) (hx : x.length = 16) (hr : encryptBlock s x = r) :
    Succeeds .encblk { s with a := x } r :=
  succeeds_of (blockCommand_succeeds hf hk hx) hr

theorem decblk_succeeds (hf : s.fault = 0) (hk : s.ksValid = true) (hx : x.length = 16) (hr : decryptBlock s x = r) :
    Succeeds .decblk { s with a := x } r :=
  succeeds_of (blockCommand_succeeds hf hk hx) hr

end Blocks

end Sys2Proof.Machine

namespace Sys2Proof

open Machine

/-- Settles O41: EncryptBlock's recursion over the middle rounds is the fold over their numbers in increasing order. -/
theorem encryptCommandRunsTheRounds : Obligations.EncryptCommandRunsTheRounds := fun s hf hk ha =>
  succeeds_of (blockCommand_succeeds hf hk ha) (by rw [encryptBlock, encryptMatrix, encryptRounds_eq_foldl]; rfl)

/-- Settles O42: DecryptBlock's recursion over the middle rounds is the fold over their numbers in decreasing order. -/
theorem decryptCommandRunsTheRounds : Obligations.DecryptCommandRunsTheRounds := fun s hf hk ha =>
  succeeds_of (blockCommand_succeeds hf hk ha) (by rw [decryptBlock, decryptMatrix, decryptRounds_eq_foldl]; rfl)

/-- Settles O44: the two block functions undo each other on 16-byte strings, so encryption has at most one block for an
answer, and the decryption of the answer is one. -/
theorem decryptionInvertsEncryption : Obligations.DecryptionInvertsEncryption := by
  intro s hf hk
  refine ⟨fun x hx => ⟨?_, ?_⟩, fun x y r hx hy hxr hyr => ?_, fun r hr => ?_⟩
  · exact ⟨encryptBlock s x, encblk_succeeds hf hk hx rfl, length_encryptBlock x,
      decblk_succeeds hf hk rfl (decryptBlock_encryptBlock s hx)⟩
  · exact ⟨decryptBlock s x, decblk_succeeds hf hk hx rfl, length_decryptBlock x,
      encblk_succeeds hf hk rfl (encryptBlock_decryptBlock s hx)⟩
  · have hanswerX : encryptBlock s x = r := (encblk_succeeds hf hk hx rfl).result_unique hxr
    have hanswerY : encryptBlock s y = r := (encblk_succeeds hf hk hy rfl).result_unique hyr
    calc x = decryptBlock s (encryptBlock s x) := (decryptBlock_encryptBlock s hx).symm
      _ = decryptBlock s (encryptBlock s y) := by rw [hanswerX, hanswerY]
      _ = y := decryptBlock_encryptBlock s hy
  · exact ⟨decryptBlock s r, length_decryptBlock r, encblk_succeeds hf hk rfl (encryptBlock_decryptBlock s hr)⟩

/-- Settles O43: the schedule check comes before the length check. -/
theorem blockCommandFaults : Obligations.BlockCommandFaults := fun _ hf =>
  ⟨fun hk => ⟨faultsWith_of (c := .noKeySchedule) (blockCommand_noKey hf hk),
      faultsWith_of (c := .noKeySchedule) (blockCommand_noKey hf hk)⟩,
    fun hk ha => ⟨faultsWith_of (c := .invalidBlockLength) (blockCommand_badLength hf hk ha),
      faultsWith_of (c := .invalidBlockLength) (blockCommand_badLength hf hk ha)⟩⟩

end Sys2Proof
end

section
/-! PROOFS of the family 44_ctr_mode: Inc128 as addition modulo 2^128 (R192), CtrXor byte by byte (R191, R196), and the
commands CTRENC, CTRDEC and CTRINC (R193 to R195, R198). -/

namespace Sys2Proof.Machine

/-! ### Inc128 adds 1 modulo the counter's width (R192) -/

/-- The carry scan, on the digits in base 256 least significant first: a digit 255 passes the carry on, any other digit
takes it, and the carry out of the last digit is lost. -/
theorem ofDigits_incCarry (c : Bytes) :
    Nat.ofDigits 256 ((incCarry c).map BitVec.toNat) =
      (Nat.ofDigits 256 (c.map BitVec.toNat) + 1) % 256 ^ c.length := by
  induction c with
  | nil => rfl
  | cons x rest ih =>
    by_cases hx : x = 0xFF
    · have hcarry : 255 + 256 * Nat.ofDigits 256 (rest.map BitVec.toNat) + 1 =
          256 * (Nat.ofDigits 256 (rest.map BitVec.toNat) + 1) := by ring
      simp [incCarry, hx, ih, Nat.ofDigits_cons, hcarry, Nat.pow_succ', Nat.mul_mod_mul_left]
    · have hlt : Nat.ofDigits 256 (rest.map BitVec.toNat) < 256 ^ rest.length := by
        simpa [counterValue_eq_ofDigits] using counterValue_lt rest.reverse
      have hdigit : (x + 1).toNat = x.toNat + 1 := by bv_omega
      simp only [incCarry, if_neg hx, List.map_cons, Nat.ofDigits_cons, List.length_cons, Nat.pow_succ', hdigit]
      rw [Nat.mod_eq_of_lt (by omega)]
      omega

theorem counterValue_inc128 (c : Bytes) : counterValue (inc128 c) = (counterValue c + 1) % 256 ^ c.length := by
  rw [counterValue_eq_ofDigits, counterValue_eq_ofDigits, inc128, List.reverse_reverse, ofDigits_incCarry,
    List.length_reverse]

@[simp] theorem length_iterate_inc128 (j : Nat) (c : Bytes) : (inc128^[j] c).length = c.length := by
  induction j with
  | zero => rfl
  | succ j ih => rw [Function.iterate_succ_apply', length_inc128, ih]

theorem counterValue_iterate_inc128 (j : Nat) (c : Bytes) :
    counterValue (inc128^[j] c) = (counterValue c + j) % 256 ^ c.length := by
  induction j with
  | zero => exact (Nat.mod_eq_of_lt (counterValue_lt c)).symm
  | succ j ih =>
    rw [Function.iterate_succ_apply', counterValue_inc128, length_iterate_inc128, ih, Nat.mod_add_mod, Nat.add_assoc]

/-- The 16 bytes of a counter hold 128 bits (R44, R192). -/
theorem counterValue_iterate_inc128_of_length_16 {c : Bytes} (hc : c.length = 16) (j : Nat) :
    counterValue (inc128^[j] c) = (counterValue c + j) % 2 ^ 128 := by
  have hbits : 256 ^ 16 = 2 ^ 128 := by decide
  rw [counterValue_iterate_inc128, hc, hbits]

/-! ### CtrXor byte by byte (R191) -/

section CtrXor

variable {s : State} {c d data x y r iv : Bytes} {m : Nat}

theorem eq_of_byteAt_eq (hl : c.length = d.length) (h : ∀ m < c.length, byteAt c m = byteAt d m) : c = d := by
  refine List.ext_getElem hl fun m hc hd => ?_
  simpa [byteAt, hc, hd] using h m hc

theorem byteAt_append_left (h : m < c.length) : byteAt (c ++ d) m = byteAt c m := List.getD_append _ _ _ _ h

theorem byteAt_append_right (h : c.length ≤ m) : byteAt (c ++ d) m = byteAt d (m - c.length) :=
  List.getD_append_right _ _ _ _ h

/-- Byte `m` of the loop's output is byte `m` of the data XOR byte `m mod 16` of the encryption of the counter after
`m div 16` increments: the first chunk holds the bytes below 16, and the turns after it hold the others. -/
theorem byteAt_ctrBlocks {enc : Bytes → Bytes} (henc : ∀ c, (enc c).length = 16) (n : Nat) (data ctr : Bytes)
    (m : Nat) (hn : data.length ≤ 16 * n) (hm : m < data.length) :
    byteAt (ctrBlocks enc n data ctr) m = byteAt data m ^^^ byteAt (enc (inc128^[m / 16] ctr)) (m % 16) := by
  induction n generalizing data ctr m with
  | zero => omega
  | succ n ih =>
    have hchunk : (data.take 16).length = min 16 data.length := List.length_take
    have hfirst : (xorBytes (data.take 16) (enc ctr)).length = min 16 data.length := by
      rw [length_xorBytes, hchunk, henc]; omega
    rw [ctrBlocks]
    by_cases h16 : m < 16
    · have htake : byteAt (data.take 16) m = byteAt data m := by simp [byteAt, h16]
      rw [byteAt_append_left (by omega), byteAt_xorBytes (by omega) (by rw [henc]; exact h16), htake,
        Nat.div_eq_of_lt h16, Nat.mod_eq_of_lt h16, Function.iterate_zero_apply]
    · obtain ⟨k, rfl⟩ : ∃ k, m = k + 16 := ⟨m - 16, by omega⟩
      have hdrop : byteAt (data.drop 16) k = byteAt data (k + 16) := by simp [byteAt, Nat.add_comm]
      have hrest := ih (data.drop 16) (inc128 ctr) k (by simp; omega) (by simp; omega)
      rw [byteAt_append_right (by omega), hfirst, Nat.min_eq_left (by omega), Nat.add_sub_cancel, hrest, hdrop,
        Nat.add_div_right _ (by decide), Nat.add_mod_right, Function.iterate_succ_apply]

/-- Byte `m` of CtrXor depends on the data through its byte `m` alone (R191). -/
theorem byteAt_ctrXor (hm : m < data.length) :
    byteAt (ctrXor s data iv) m = byteAt data m ^^^ byteAt (encryptBlock s (inc128^[m / 16] iv)) (m % 16) :=
  byteAt_ctrBlocks length_encryptBlock _ _ _ _ (le_blockCount _) hm

/-- CtrXor is an involution for a fixed schedule and IV (R196). -/
theorem ctrXor_ctrXor (s : State) (data iv : Bytes) : ctrXor s (ctrXor s data iv) iv = data := by
  refine eq_of_byteAt_eq (by simp) fun m hm => ?_
  simp only [length_ctrXor] at hm
  rw [byteAt_ctrXor (by simpa using hm), byteAt_ctrXor hm, BitVec.xor_assoc, BitVec.xor_self, BitVec.xor_zero]

/-- With one IV used twice the encrypted counters cancel (R196). -/
theorem xorBytes_ctrXor_ctrXor (s : State) (x y iv : Bytes) :
    xorBytes (ctrXor s x iv) (ctrXor s y iv) = xorBytes x y := by
  refine eq_of_byteAt_eq (by simp) fun m hm => ?_
  simp only [length_xorBytes, length_ctrXor, lt_min_iff] at hm
  obtain ⟨hx, hy⟩ := hm
  rw [byteAt_xorBytes (by simpa using hx) (by simpa using hy), byteAt_xorBytes hx hy, byteAt_ctrXor hx, byteAt_ctrXor hy,
    xor_xor_xor_cancel]

/-- A response changes neither the schedule nor the key length, so it leaves CtrXor as it was (R29). -/
theorem ctrXor_succeed (data iv : Bytes) : ctrXor (succeed r s) data iv = ctrXor s data iv := rfl

/-! ### The commands (R193 to R195, R198) -/

theorem ctrenc_succeeds (hf : s.fault = 0) (hk : s.ksValid = true) (hb : s.b.length = 16) (hr : ctrXor s x s.b = r) :
    Succeeds .ctrenc { s with a := x } r :=
  succeeds_of (ctrCommand_succeeds hf hk hb) hr

theorem ctrdec_succeeds (hf : s.fault = 0) (hk : s.ksValid = true) (hb : s.b.length = 16) (hr : ctrXor s x s.b = r) :
    Succeeds .ctrdec { s with a := x } r :=
  succeeds_of (ctrCommand_succeeds hf hk hb) hr

theorem ctrinc_succeeds (hf : s.fault = 0) (ha : s.a.length = 16) : Succeeds .ctrinc s (inc128 s.a) :=
  succeeds_of ((unlessFaultHeld_clear hf).trans (by rw [if_neg (not_not.2 ha)])) rfl

theorem ctrinc_faults (hf : s.fault = 0) (ha : s.a.length ≠ 16) :
    exec .ctrinc s = .next (takeFault .invalidOperandLength s) :=
  (unlessFaultHeld_clear hf).trans (by rw [if_pos ha])

end CtrXor

end Sys2Proof.Machine

namespace Sys2Proof

open Machine

/-- Settles O45: the carry scan adds 1 in base 256 and loses the carry out of the 16 bytes. -/
theorem counterIncrementIsBigEndianModulo : Obligations.CounterIncrementIsBigEndianModulo := fun s hf =>
  ⟨fun ha => ⟨inc128 s.a, ctrinc_succeeds hf ha, (length_inc128 s.a).trans ha,
      counterValue_iterate_inc128_of_length_16 ha 1⟩,
    fun ha => faultsWith_of (c := .invalidOperandLength) (ctrinc_faults hf ha)⟩

/-- Settles O47: the counter of the block is the IV after as many increments, since its value determines it. -/
theorem counterModeUsesConsecutiveCounters : Obligations.CounterModeUsesConsecutiveCounters := by
  intro s hf hk hb
  refine ⟨ctrXor s s.a s.b, ctrenc_succeeds hf hk hb rfl, ctrdec_succeeds hf hk hb rfl, length_ctrXor _ _, ?_⟩
  intro m ctr hm hlen hvalue
  have hctr : ctr = inc128^[m / 16] s.b := by
    refine eq_of_counterValue_eq (by rw [hlen, length_iterate_inc128, hb]) ?_
    exact hvalue.trans (counterValue_iterate_inc128_of_length_16 hb _).symm
  rw [hctr]
  exact byteAt_ctrXor hm

/-- Settles O48: both commands answer CtrXor of the data on the port, under the schedule and the IV that the first
command leaves. -/
theorem counterModeRoundTripAndReuse : Obligations.CounterModeRoundTripAndReuse := by
  intro s hf hk hb
  have hundo : ctrXor (succeed (ctrXor s s.a s.b) s) (ctrXor s s.a s.b) s.b = s.a :=
    (ctrXor_succeed _ _).trans (ctrXor_ctrXor s s.a s.b)
  refine ⟨ctrXor s s.a s.b, succeed (ctrXor s s.a s.b) s, ctrCommand_succeeds hf hk hb, rfl, length_ctrXor _ _,
    ctrdec_succeeds hf hk hb hundo, ctrenc_succeeds hf hk hb hundo, fun p => ?_⟩
  exact ⟨ctrXor s p s.b, ctrenc_succeeds hf hk hb (ctrXor_succeed _ _), xorBytes_ctrXor_ctrXor s s.a p s.b⟩

/-- Settles O49: the schedule check comes before the check of the IV, and neither reads the data. -/
theorem counterModeFaults : Obligations.CounterModeFaults := fun _ hf =>
  ⟨fun hk => ⟨faultsWith_of (c := .noKeySchedule) (ctrCommand_noKey hf hk),
      faultsWith_of (c := .noKeySchedule) (ctrCommand_noKey hf hk)⟩,
    fun hk hb => ⟨faultsWith_of (c := .invalidIvLength) (ctrCommand_badIv hf hk hb),
      faultsWith_of (c := .invalidIvLength) (ctrCommand_badIv hf hk hb)⟩⟩

/-- Settles O50: the bound is tested before anything else, and a bound that holds the data is as good as none. -/
theorem longCounterDataIsRefused : Obligations.LongCounterDataIsRefused := fun m s =>
  ⟨fun hlong => ctrCommand_refuses (by simpa using hlong), fun hfits =>
    have hwithin : ctrCommand (some m) s = ctrCommand none s := ctrCommand_within (by simpa using hfits)
    ⟨hwithin, hwithin⟩⟩

end Sys2Proof
end

section
/-! PROOFS of the family 60_exceptions: the answer while a fault is held (R212), precise faults (R213), and a next state
from every step (R198, R211). -/

namespace Sys2Proof.Machine

variable {i : Instr} {s t : State} {o : Host.Outcome State Fault Refusal}

/-! ### What the ends of a command say about its fault -/

/-- While a fault is held, a command has one end only (R212). -/
theorem CommandEnds.eq_answerHeldFault (he : CommandEnds i s o) (hf : s.fault ≠ 0) : o = .next (answerHeldFault s) := by
  cases he with
  | held => rfl
  | faults h0 => exact absurd h0 hf
  | answers h0 => exact absurd h0 hf
  | loads h0 => exact absurd h0 hf

/-- Where a command leaves a fault that was not held before, it took that fault and did nothing else (R213). -/
theorem CommandEnds.exists_takeFault (he : CommandEnds i s (.next t)) (hf : s.fault = 0) (ht : t.fault ≠ 0) :
    ∃ c, t = takeFault c s := by
  cases he with
  | held hne => exact absurd hf hne
  | faults _ c => exact ⟨c, rfl⟩
  | answers => exact absurd hf ht
  | loads => exact absurd hf (by simpa using ht)

/-- However a command ends, the machine goes on (R211). -/
theorem CommandEnds.exists_next (he : CommandEnds i s o) : ∃ t, o = .next t := by
  cases he with
  | held => exact ⟨_, rfl⟩
  | faults => exact ⟨_, rfl⟩
  | answers => exact ⟨_, rfl⟩
  | loads => exact ⟨_, rfl⟩

end Sys2Proof.Machine

namespace Sys2Proof

open Machine

/-- Settles O11: of the ends of a command, the answer of the held fault is the only one from a state that holds one. -/
theorem heldFaultAnswersEveryCommand : Obligations.HeldFaultAnswersEveryCommand := by
  intro s hf
  obtain ⟨_, he⟩ := runPresented_ends s
  exact ⟨he.eq_answerHeldFault hf, fun i => (exec_ends i s).eq_answerHeldFault hf⟩

/-- Settles O12: taking a fault is the only end of a command that sets `FAULT`, and it writes `FAULT` and the response. -/
theorem faultEntryIsPrecise : Obligations.FaultEntryIsPrecise := by
  intro s t hf hrun ht
  obtain ⟨i, he⟩ := runPresented_ends s
  obtain ⟨c, rfl⟩ := (hrun ▸ he).exists_takeFault hf ht
  rfl

/-- Settles O17: an idle step and a RESET always complete, and a command word completes however its command ends. -/
theorem everyStepGivesANextState : Obligations.EveryStepGivesANextState := by
  intro s
  match hp : s.pending with
  | [] => exact ⟨s, step_idle hp⟩
  | .command t :: rest =>
    obtain ⟨_, he⟩ := runPresented_ends (present t rest s)
    rw [step_command hp]
    exact he.exists_next
  | .reset :: rest => exact ⟨takeReset rest s, step_reset hp⟩
  | .resetDuring _ :: rest => exact ⟨takeReset rest s, step_resetDuring hp⟩

end Sys2Proof
end

section
/-! PROOFS of the family 70_reset_and_hazards: RESET and the held fault (R215, R240), the commands that need no schedule
(R242), the idle engine (R241), and the end of a run (R246). -/

namespace Sys2Proof.Machine

variable {i : Instr} {s t : State} {x : HostInput} {tr : Transaction} {rest inputs : List HostInput}

/-! ### Commands that need no schedule (R242) -/

/-- A command that checks one operand, and whose check and answer do not read `KS_VALID`, does the same with a schedule as
without. -/
theorem exists_next_ksValid_of_oneCheck {p : Prop} [Decidable p] {c : Cause} {r : Bytes} (hf : s.fault = 0) :
    ∃ t, unlessFaultHeld s (if p then takeFault c s else succeed r s) = .next t ∧
      unlessFaultHeld { s with ksValid := true }
        (if p then takeFault c { s with ksValid := true } else succeed r { s with ksValid := true }) =
          .next { t with ksValid := true } := by
  refine ⟨_, unlessFaultHeld_clear hf, (unlessFaultHeld_clear (s := { s with ksValid := true }) hf).trans ?_⟩
  split <;> rfl

/-- CTRINC and the component commands do not read `KS_VALID`. -/
theorem exec_ksValid_of_keyless (hf : s.fault = 0) (hn : needsSchedule i = false) (hkey : i ≠ .keyexpand)
    (hinfo : i ≠ .ksinfo) :
    ∃ t, exec i s = .next t ∧ exec i { s with ksValid := true } = .next { t with ksValid := true } := by
  cases i with
  | keyexpand => exact absurd rfl hkey
  | ksinfo => exact absurd rfl hinfo
  | rkread | encblk | decblk | ctrenc | ctrdec => cases hn
  | ctrinc | xtime | sbox | invsbox | subbytes | invsubbytes | shiftrows | invshiftrows | mixcolumns | invmixcolumns
  | addroundkey => exact exists_next_ksValid_of_oneCheck hf

/-! ### The inputs of a run (R63, R240, R246) -/

/-- No command changes what the host has yet to present. -/
theorem CommandEnds.pending_eq (he : CommandEnds i s (.next t)) : t.pending = s.pending := by
  cases he with
  | held => rfl
  | faults => rfl
  | answers => rfl
  | loads => simp

/-- A transaction is taken with one response, whose `STATUS` is `FAULT` (R63). -/
theorem step_command_responds (hp : s.pending = .command tr :: rest) :
    ∃ u r, step s = .next u ∧ u.pending = rest ∧ u.responses = s.responses ++ [{ status := u.fault, r := r }] := by
  obtain ⟨i, he⟩ := runPresented_ends (present tr rest s)
  obtain ⟨u, hrun⟩ := he.exists_next
  obtain ⟨r, hr, -⟩ := everyCommandGivesOneResponse _ u hrun
  exact ⟨u, r, (step_command hp).trans hrun, (hrun ▸ he).pending_eq, hr⟩

/-- Every input is taken in one step, with one response for a transaction and none for a RESET (R63, R240). -/
theorem step_takes_input (hp : s.pending = x :: rest) :
    ∃ u, step s = .next u ∧ u.pending = rest ∧ u.responses.length = s.responses.length + [x].countP getsResponse := by
  cases x with
  | command tr =>
    obtain ⟨u, r, hstep, hrest, hr⟩ := step_command_responds hp
    exact ⟨u, hstep, hrest, by simp [hr, getsResponse]⟩
  | reset => exact ⟨takeReset rest s, step_reset hp, rfl, rfl⟩
  | resetDuring tr => exact ⟨takeReset rest s, step_resetDuring hp, rfl, rfl⟩

/-- A run whose last input is a transaction ends with the response to it, after one response for each transaction before
it. -/
theorem run_ends_with_response (hp : s.pending = inputs ++ [.command tr]) :
    ∃ u before r, Sys2Proof.core.run (inputs.length + 1) s = .next u ∧ u.pending = [] ∧
      u.responses = before ++ [{ status := u.fault, r := r }] ∧
      before.length = s.responses.length + inputs.countP getsResponse := by
  induction inputs generalizing s with
  | nil =>
    obtain ⟨u, r, hstep, hrest, hr⟩ := step_command_responds hp
    exact ⟨u, s.responses, r, run_step 0 hstep, hrest, hr, rfl⟩
  | cons x inputs ih =>
    obtain ⟨v, hstep, hrest, hv⟩ := step_takes_input hp
    obtain ⟨u, before, r, hrun, hend, hr, hlen⟩ := ih hrest
    refine ⟨u, before, r, (run_step _ hstep).trans hrun, hend, hr, ?_⟩
    rw [hlen, hv, Nat.add_assoc, ← List.countP_append, List.singleton_append]

/-- The run of a list ends with its last transaction, and takes every input up to that one (R246). -/
theorem runInputs_command_append {tail : List HostInput} (inputs : List HostInput) (tr : Transaction)
    (h : ∀ x ∈ tail, getsResponse x = false) :
    runInputs (inputs ++ .command tr :: tail) =
      Sys2Proof.core.run (inputs.length + 1) (State.load (inputs ++ [.command tr])) := by
  rw [List.append_cons, runInputs_append _ h, runInputs, runPart_command, List.length_append, List.length_singleton]

end Sys2Proof.Machine

namespace Sys2Proof

open Machine

/-- Settles O55: the inputs after the last transaction are no part of the run, and every input before it is taken in one
step. -/
theorem runEndsAfterItsLastResponse : Obligations.RunEndsAfterItsLastResponse := by
  intro inputs tail tr htail
  obtain ⟨u, before, r, hrun, hend, hr, hlen⟩ :=
    run_ends_with_response (s := State.load (inputs ++ [.command tr])) (inputs := inputs) rfl
  have hcount : before.length = inputs.countP getsResponse := hlen.trans (Nat.zero_add _)
  have hlast : u.responses.getLast? = some { status := u.fault, r := r } := by simp [hr]
  exact ⟨u, { status := u.fault, r := r }, (runInputs_command_append inputs tr htail).trans hrun, hrun, hend,
    by simp [hr, hcount], hlast, rfl, fun hf => ⟨_, List.mem_of_getLast? hlast, hf⟩⟩

/-- Settles O54: with no schedule the first cause of R214 is NO_KEY_SCHEDULE, and the other commands do not read
`KS_VALID`. -/
theorem keylessCommandsNeedNoSchedule : Obligations.KeylessCommandsNeedNoSchedule := by
  intro i s hf hv
  refine ⟨fun hn => ?_, exec_ksValid_of_keyless hf⟩
  have hfirst : firstFault i s = 2 := if_pos ⟨hn, hv⟩
  obtain ⟨hfaults, -⟩ := operandTableDecidesFaultOrResult i s hf
  rw [hfirst] at hfaults
  exact hfaults (by decide)

/-- Settles O9: of the things a step can do, idling changes nothing, a command answers the fault that is held, and only
taking a RESET is left. -/
theorem resetClearsAndOnlyResetClearsFault : Obligations.ResetClearsAndOnlyResetClearsFault := by
  refine ⟨fun s tr rest hp => ⟨takeReset rest s, hp.elim step_reset step_resetDuring, ?_⟩, fun s u hf hstep => ?_⟩
  · exact ⟨rfl, rfl, rfl, rfl, rfl, rfl, rfl, rfl, rfl⟩
  · obtain ⟨-, rfl⟩ | ⟨tr, rest, -, hrun⟩ | ⟨tr, rest, hp, -⟩ := step_cases hstep
    · exact .inl rfl
    · obtain ⟨hheld, -⟩ := heldFaultAnswersEveryCommand (present tr rest s) hf
      cases hheld.symm.trans hrun
      exact .inl rfl
    · exact .inr ⟨tr, rest, hp⟩

/-- Settles O7, by what a step does with no input left. -/
theorem stepWithoutInputIsIdle : Obligations.StepWithoutInputIsIdle := fun _ => step_idle

end Sys2Proof
end
